-- ==== Sys2Proof/Word.lean ====
section
/-! DEFINITION. The word types of the controller (00_scope.md section 6.1): every value is unsigned, and bits are
numbered from 0, the least significant. `u8` is `Byte`, `u32` and a queue word are `Word`. -/

namespace Sys2Proof

/-- An unsigned 8-bit value: a bus address, a bus data value, a colour channel (ADDR_W = DATA_W = 8, R2). -/
abbrev Byte := BitVec 8

/-- An unsigned 32-bit value: a queue word (FIFO_WORD_W, R3), the flash cursor and a flash address (POINTER_W, R2). -/
abbrev Word := BitVec 32

/-- One entry of the pixel buffer: three channel bytes (R9, PIXEL_CHANNELS = 3). -/
structure Pixel where
  r : Byte
  g : Byte
  b : Byte
  deriving DecidableEq, Repr, Inhabited

end Sys2Proof
end

