-- ==== Sys2Proof/Config.lean ====
section
/-! DEFINITION. What is fixed for the machine: the parameters of 00_scope.md R2 and R3, and the values no rule
constrains (`draw()`, 00_scope.md section 6.2). An OPEN parameter of R3 is an opaque constant: nothing in Lean can
evaluate it, so a claim about it holds for every value. -/

namespace Sys2Proof

/-- Transceiver `n`: `u0` is n = 0, `u1` is n = 1 (N_UART = 2, R2; R16). -/
inductive UartId where
  | u0
  | u1
  deriving DecidableEq, Repr, Inhabited

/-! ## Parameters the spec fixes or decides (R2, R3) -/

/-- LED_RESET_CODE (R2). -/
def Config.ledResetCode : Byte := 254
/-- LED_LATCH_CODE (R2). -/
def Config.ledLatchCode : Byte := 255
/-- UNMAPPED_READ (R2). -/
def Config.unmappedRead : Byte := 0
/-- PIXEL_COUNT_RESET (R2). -/
def Config.pixelCountReset : Fin 251 := 1
/-- SELECTED_RESET (R3; the spec's decision D13, log entry 11). -/
def Config.selectedReset : Fin 250 := 0
/-- POINTER_RESET (R3; the spec's decision D12, log entry 11). -/
def Config.pointerReset : Word := 0
/-- WR_ADDR_LO: lowest bit of the address field of a WREQ word (R3; the spec's decision D3, log entry 12). -/
def Config.wrAddrLo : Nat := 8
/-- WR_DATA_LO: lowest bit of the data field of a WREQ word (R3; the spec's decision D3, log entry 12). -/
def Config.wrDataLo : Nat := 0
/-- RD_ADDR_LO: lowest bit of the address field of an RREQ word (R3; the spec's decision D4, log entry 12). -/
def Config.rdAddrLo : Nat := 0

/-! ## OPEN parameters (R3) -/

/-- WQ_DEPTH less one, any natural number (log entry 4). -/
opaque Config.wqDepthLessOne : Nat
/-- RQ_DEPTH less one, any natural number (log entry 4). -/
opaque Config.rqDepthLessOne : Nat
/-- RSP_DEPTH less one, any natural number (log entry 4). -/
opaque Config.rspDepthLessOne : Nat
/-- LEDQ_DEPTH less one, any natural number (log entry 4). -/
opaque Config.ledqDepthLessOne : Nat

/-- WQ_DEPTH: "integer, at least 1" (R3). -/
def Config.wqDepth : Nat := Config.wqDepthLessOne + 1
/-- RQ_DEPTH: "integer, at least 1" (R3). -/
def Config.rqDepth : Nat := Config.rqDepthLessOne + 1
/-- RSP_DEPTH: "integer, at least 1" (R3). -/
def Config.rspDepth : Nat := Config.rspDepthLessOne + 1
/-- LEDQ_DEPTH: "integer, at least 1" (R3). -/
def Config.ledqDepth : Nat := Config.ledqDepthLessOne + 1

/-- Bits 31:20 of FLASH_BASE, any value (log entry 5). -/
opaque Config.flashPage : BitVec 12
/-- FLASH_BASE: "32-bit value whose low 20 bits are zero" (R3). -/
def Config.flashBase : Word := Config.flashPage ++ (0 : BitVec 20)
/-- FLASH: the contents of the flash address space, constant for a run (R3, R17; log entry 5). -/
opaque Config.flash : Word → Byte

/-- PIXEL_RESET: "function from index 0..249 to a triple of bytes", red, green, blue (R3, R28; log entry 6). -/
opaque Config.pixelReset : Fin 250 → Byte × Byte × Byte

/-- UART_STATUS_W less 8 (log entry 19). -/
opaque Config.uartStatusExtra : Nat
/-- UART_RXREG_W less 8 (log entry 19). -/
opaque Config.uartRxRegExtra : Nat
/-- UART_STATUS_W: "integer, at least 8" (R3). -/
def Config.uartStatusW : Nat := Config.uartStatusExtra + 8
/-- UART_RXREG_W: "integer, at least 8" (R3). -/
def Config.uartRxRegW : Nat := Config.uartRxRegExtra + 8

/-! ## What the transceivers hold when the controller leaves reset (R28: "not reset by the controller; whatever the
transceivers hold"; DESIGN CHOICE: opaque constants, log entry 7) -/

opaque Config.uartRx : UartId → List Byte
opaque Config.uartRxReg : UartId → BitVec Config.uartRxRegW
opaque Config.uartTx : UartId → List Byte
opaque Config.uartTxReady : UartId → Bool
opaque Config.uartStatus : UartId → BitVec Config.uartStatusW

/-! ## Free values: `draw()`, "any value of the stated width, chosen anew each time" -/

/-- The byte of a flash read outside the window (R97, R99, U3), by number of draws so far (log entry 8). -/
opaque Config.drawByte : Nat → Byte
/-- The byte of a serial data read with no byte pending (R103, U2), by number of draws so far and the stale content of
the raw receive register (log entry 9). -/
opaque Config.staleByte : Nat → BitVec Config.uartRxRegW → Byte

/-! ## The environment's moves (R122) -/

/-- One step of an agent other than the dispatcher. -/
inductive Move where
  /-- The producer pushes a write request (R74). -/
  | pushWrite (w : Word)
  /-- The producer pushes a read request (R74). -/
  | pushRead (q : Word)
  /-- The response consumer pops `RSP` (R75). -/
  | popResponse
  /-- The LED driver pops `LEDQ` (R90). -/
  | ledDriverPop
  /-- A byte arrives at transceiver `n` (R110). -/
  | uartReceive (n : UartId) (c : Byte)
  /-- Transceiver `n` takes its oldest byte to transmit (R110). -/
  | uartTransmit (n : UartId)
  /-- Transceiver `n`'s status word, readiness and receive register change (R110). -/
  | uartChange (n : UartId) (status : BitVec Config.uartStatusW) (ready : Bool) (rxreg : BitVec Config.uartRxRegW)
  /-- The sequencer arms the bus-sampling and bus-driving hardware (R128 step 3). -/
  | armBus
  /-- The sequencer starts the clock generator that paces the master (R128 step 4). -/
  | startClock
  /-- The sequencer releases the master reset line (R128 step 5). -/
  | releaseMaster
  deriving DecidableEq, Repr

/-- Whose step comes next: the dispatcher's, or a move of the environment (R122; log entry 1). -/
inductive Turn where
  | dispatcher
  | environment (m : Move)
  deriving DecidableEq, Repr

/-- The environment's moves between two of the dispatcher's turns, by the number of the round: "Any agent may step at any
time" (R122), so nothing constrains them but that each round ends and the dispatcher steps again (R4; log entry 1). -/
opaque Config.round : Nat → List Move

end Sys2Proof
end

