-- ==== Sys2Proof/Machine/State.lean ====
section
/-! DEFINITION. The state of the controller, of its queues and of the external collaborators it touches
(10_state.md R5), as plain data, and the state right after controller reset (R28, 70_reset_and_hazards.md R127 to
R129). The flash contents are a constant and no state (R17, R28): `Config.flash`. -/

namespace Sys2Proof.Machine

/-- The sequencing state (R11): the popped request whose output waits for an external collaborator. -/
inductive Phase where
  /-- No request is in service. -/
  | idle
  /-- A latch is in progress; pixel `i` is the next to be accepted by `LEDQ`. -/
  | latchEmit (i : Fin 250)
  /-- A data write to transceiver `n` has been popped; `b` has not yet been accepted. -/
  | uartTx (n : UartId) (b : Byte)
  /-- A read has been popped and its side effects done; `w` has not yet been accepted by `RSP`. -/
  | respPush (w : Word)
  deriving DecidableEq, Repr

/-- One transceiver's state, as far as the controller touches it (R16). -/
structure Uart where
  /-- Bytes received and not yet read, oldest first. -/
  rx : List Byte
  /-- What the raw receive register shows when `rx` is empty. -/
  rxreg : BitVec Config.uartRxRegW
  /-- Bytes handed to the transmit path, oldest first. -/
  tx : List Byte
  /-- Whether the transceiver accepts a byte now. -/
  txReady : Bool
  /-- The raw status word. -/
  status : BitVec Config.uartStatusW
  deriving DecidableEq, Repr

/-- How far the startup sequencer has come (R128 steps 3, 4 and 5). -/
structure Startup where
  /-- The bus-sampling and bus-driving hardware is armed. -/
  busArmed : Bool
  /-- The clock generator that paces the master runs. -/
  clockStarted : Bool
  /-- The master reset line is released. -/
  masterReleased : Bool
  deriving DecidableEq, Repr

/-- Whose steps come next: the model's own (log entry 1). -/
structure Turns where
  /-- The turns that come next, before the rounds of `Config.round`. -/
  listed : List Turn
  /-- How many rounds of `Config.round` have begun. -/
  rounds : Nat
  deriving DecidableEq, Repr

/-- The whole state (R5), the sequencer's progress (R128), and the model's own `turns` and
`draws`. -/
structure State where
  /-- `pixel_count`, the logical length (R7). -/
  pixelCount : Fin 251
  /-- `selected_index` (R8). -/
  selectedIndex : Fin 250
  /-- `buf`, the pixel buffer (R9). -/
  buf : Vector Pixel 250
  /-- `pointer`, the flash cursor (R10). -/
  pointer : Word
  /-- `phase` (R11). -/
  phase : Phase
  /-- `WQ`, oldest first (R12). -/
  wq : List Word
  /-- `RQ`, oldest first (R13). -/
  rq : List Word
  /-- `RSP`, oldest first (R14). -/
  rsp : List Word
  /-- `LEDQ`, oldest first (R15). -/
  ledq : List Word
  /-- `uart[0]` (R16). -/
  uart0 : Uart
  /-- `uart[1]` (R16). -/
  uart1 : Uart
  /-- `overrun`, the spec's model-level fault record, sticky (R19). -/
  overrun : Bool
  /-- The startup sequencer's progress (R128). -/
  startup : Startup
  /-- The model's own: whose steps come next (log entry 1). -/
  turns : Turns
  /-- The model's own: how many unconstrained values have been drawn (log entry 10). -/
  draws : Nat
  deriving DecidableEq, Repr

/-- Why a step stops the machine. -/
inductive Fault where
  /-- Raised by `step`, and by nothing else, in a state whose `overrun` is set: a request queue was overrun, and the
  spec says nothing of the controller's behaviour afterwards (R113, U5). Safe: the hardware goes on in a way no claim
  may rest on. -/
  | overrun
  deriving DecidableEq, Repr

/-- Why an operation has no meaning. -/
inductive Refusal where
  /-- Raised by an arm of `exec` whose operation has no meaning yet; no arm does. Safe. -/
  | notModelled (mnemonic : String)
  deriving DecidableEq, Repr

/-- Transceiver `n` as it stands when the controller leaves reset (R28: not reset by the controller; log entry 7). -/
def Uart.atReset (n : UartId) : Uart where
  rx := Config.uartRx n
  rxreg := Config.uartRxReg n
  tx := Config.uartTx n
  txReady := Config.uartTxReady n
  status := Config.uartStatus n

/-- The pixel buffer at controller reset: `PIXEL_RESET` (R28). -/
def bufReset : Vector Pixel 250 :=
  Vector.ofFn fun i => ⟨(Config.pixelReset i).1, (Config.pixelReset i).2.1, (Config.pixelReset i).2.2⟩

/-- The state right after controller reset, with the master still held in reset (R28, R128 steps 1 and 2). -/
def State.reset : State where
  pixelCount := Config.pixelCountReset
  selectedIndex := Config.selectedReset
  buf := bufReset
  pointer := Config.pointerReset
  phase := .idle
  wq := []
  rq := []
  rsp := []
  ledq := []
  uart0 := Uart.atReset .u0
  uart1 := Uart.atReset .u1
  overrun := false
  startup := ⟨false, false, false⟩
  turns := ⟨[], 0⟩
  draws := 0

end Sys2Proof.Machine
end

