-- ==== Sys2Proof/Machine/Flags.lean ====
section
/-! DEFINITION. The hardware has no status flags, no condition codes and no predicates, and no operation sets a flag
(10_state.md R18). The one status of the model is the sticky fault record `overrun` (R19, 60_exceptions.md R113). -/

namespace Sys2Proof.Machine

/-- `raise Overrun(q)`: `overrun <- true`; the request that did not fit is lost (R113). -/
def raiseOverrun (s : State) : State := { s with overrun := true }

end Sys2Proof.Machine
end

