-- ==== Sys2Proof/Machine/Operands.lean ====
section
/-! DEFINITION. Operand and result assembly (30_encoding.md R52, R53, R57): how bytes become fields of the cursor,
response words and LED words. The request words' own fields are in Sys2Proof/Decode.lean. -/

namespace Sys2Proof.Machine

/-- The RESP word of a byte: `zext_32(value)` (R52; the spec's decision D5, log entry 12). -/
def respWord (v : Byte) : Word := v.setWidth 32

/-- `ledword(p)`: green in bits 15:8, red in bits 23:16, blue in bits 31:24, bits 7:0 zero (R53). -/
def ledWord (p : Pixel) : Word :=
  (p.b.setWidth 32 <<< 24) ||| (p.r.setWidth 32 <<< 16) ||| (p.g.setWidth 32 <<< 8)

/-- The masked merge of R57 item 4: the field of mask `m` at bit offset `sh` of `p` becomes `x`. -/
def mergeField (m : Word) (sh : Nat) (x p : Word) : Word :=
  (p &&& ~~~(m <<< sh)) ||| (x <<< sh)

/-- `pointer[7:0] <- d` (R57 item 4, R91). -/
def mergeByte0 (d : Byte) (p : Word) : Word := mergeField 0xFF 0 (d.setWidth 32) p
/-- `pointer[15:8] <- d` (R57 item 4, R92). -/
def mergeByte1 (d : Byte) (p : Word) : Word := mergeField 0xFF 8 (d.setWidth 32) p
/-- `pointer[19:16] <- d[3:0]`; `d[7:4]` is discarded (R57 items 3 and 4, R93). -/
def mergeNibble2 (d : Byte) (p : Word) : Word := mergeField 0xF 16 ((d.extractLsb' 0 4).setWidth 32) p

/-- `pointer[7:0]` (R94). -/
def pointerByte0 (p : Word) : Byte := p.extractLsb' 0 8
/-- `pointer[15:8]` (R95). -/
def pointerByte1 (p : Word) : Byte := p.extractLsb' 8 8
/-- `zext_8(pointer[19:16])` (R96). -/
def pointerNibble2 (p : Word) : Byte := (p.extractLsb' 16 4).setWidth 8

/-- The low 8 bits of a raw status word (R57 item 6, R105; the spec's decision D17, log entry 19). -/
def statusByte (s : BitVec Config.uartStatusW) : Byte := s.extractLsb' 0 8

end Sys2Proof.Machine
end

