-- ==== Sys2Proof/Machine/Ops.lean ====
section
/-! DEFINITION. The named operations the meanings and the dispatch loop share: access to the selected pixel and to a
transceiver, the two reads with a side effect, answering a read, the three steps of a held dispatcher, and controller
reset. There is no exception to take and none to return from (60_exceptions.md R111, R117, R118). -/

namespace Sys2Proof.Machine

/-! ## Transceivers (R16, R109) -/

/-- The state of transceiver `n`. -/
def State.uart (s : State) (n : UartId) : Uart :=
  match n with
  | .u0 => s.uart0
  | .u1 => s.uart1

/-- `s` with transceiver `n` replaced. -/
def State.setUart (s : State) (n : UartId) (u : Uart) : State :=
  match n with
  | .u0 => { s with uart0 := u }
  | .u1 => { s with uart1 := u }

/-! ## Pixels (R9, R23) -/

/-- `buf[selected_index]`. -/
def State.selectedPixel (s : State) : Pixel := s.buf[s.selectedIndex]

/-- `buf[selected_index] <- p`. -/
def State.setSelectedPixel (s : State) (p : Pixel) : State :=
  { s with buf := s.buf.set s.selectedIndex p }

/-! ## Reads with a side effect -/

/-- `UartReadData(n)` (R103, R104): the oldest received byte, consumed; with none pending an unconstrained byte and no
change but the count of draws (U2, log entry 9). -/
def uartReadData (n : UartId) (s : State) : Byte × State :=
  match (s.uart n).rx with
  | b :: rest => (b, s.setUart n { s.uart n with rx := rest })
  | [] => (Config.staleByte s.draws (s.uart n).rxreg, { s with draws := s.draws + 1 })

/-- The cursor is inside the window: `pointer < 2^20` (R32, R97). -/
abbrev inWindow (p : Word) : Prop := p.toNat < 2 ^ 20

/-- The effective byte address `(FLASH_BASE + pointer) mod 2^32` (R97). -/
def flashAddress (p : Word) : Word := Config.flashBase + p

/-- `FlashReadAndAdvance()` (R97): the byte at the cursor, or an unconstrained byte outside the window (R99, log entry
8); then `pointer <- (pointer + 1) mod 2^32`. -/
def flashReadAndAdvance (s : State) : Byte × State :=
  if inWindow s.pointer then
    (Config.flash (flashAddress s.pointer), { s with pointer := s.pointer + 1 })
  else
    (Config.drawByte s.draws, { s with pointer := s.pointer + 1, draws := s.draws + 1 })

/-- `phase <- RespPush(zext_32(v))`: the end of every read (R65). -/
def respond (v : Byte) (s : State) : State := { s with phase := .respPush (respWord v) }

/-! ## The dispatcher's three holds (R62): each leaves the state as it is until its condition is true (log entry 2) -/

/-- The step of `LatchEmit(i)` (R80). -/
def latchStep (i : Fin 250) (s : State) : State :=
  if s.ledq.length < Config.ledqDepth then
    { s with
      ledq := s.ledq ++ [ledWord s.buf[i]]
      phase := if h : i.val + 1 < s.pixelCount.val then .latchEmit ⟨i.val + 1, by omega⟩ else .idle }
  else s

/-- The step of `UartTx(n, b)` (R101, R102). -/
def uartTxStep (n : UartId) (b : Byte) (s : State) : State :=
  if (s.uart n).txReady then
    { s.setUart n { s.uart n with tx := (s.uart n).tx ++ [b] } with phase := .idle }
  else s

/-- The step of `RespPush(w)` (R66): the push blocks and never drops. -/
def respPushStep (w : Word) (s : State) : State :=
  if s.rsp.length < Config.rspDepth then
    { s with rsp := s.rsp ++ [w], phase := .idle }
  else s

/-! ## Controller reset (R28, R29, R126) -/

/-- Controller reset: all of the controller's state, the queues and the fault record go to the values of R28, whatever
they were; the transceivers and the sequencer are not the controller's and keep theirs (R28; log entry 18). -/
def controllerReset (s : State) : State :=
  { s with
    pixelCount := Config.pixelCountReset
    selectedIndex := Config.selectedReset
    buf := bufReset
    pointer := Config.pointerReset
    phase := .idle
    wq := []
    rq := []
    rsp := []
    ledq := []
    overrun := false }

end Sys2Proof.Machine
end

