-- ==== Sys2Proof/Machine/Environment.lean ====
section
/-! DEFINITION. The steps of the agents other than the dispatcher (60_exceptions.md R122): request producer, response
consumer, LED driver, transceivers and startup sequencer. A move whose condition is false changes nothing. -/

namespace Sys2Proof.Machine

/-- `PushWrite(w)` (R74); the producer is enabled once the master is released (R129). -/
def pushWriteMove (w : Word) (s : State) : State :=
  if s.startup.masterReleased then
    if s.wq.length < Config.wqDepth then { s with wq := s.wq ++ [w] } else raiseOverrun s
  else s

/-- `PushRead(q)` (R74); the producer is enabled once the master is released (R129). -/
def pushReadMove (q : Word) (s : State) : State :=
  if s.startup.masterReleased then
    if s.rq.length < Config.rqDepth then { s with rq := s.rq ++ [q] } else raiseOverrun s
  else s

/-- `PopResponse` (R75): the oldest response leaves the model, if there is one. -/
def popResponseMove (s : State) : State := { s with rsp := s.rsp.tail }

/-- `LedDriverPop` (R90): the oldest LED word leaves the model, if there is one. -/
def ledDriverPopMove (s : State) : State := { s with ledq := s.ledq.tail }

/-- `UartReceive(n, c)` (R110). -/
def uartReceiveMove (n : UartId) (c : Byte) (s : State) : State :=
  s.setUart n { s.uart n with rx := (s.uart n).rx ++ [c] }

/-- `UartTransmit(n)` (R110): the oldest byte leaves the model, if there is one. -/
def uartTransmitMove (n : UartId) (s : State) : State :=
  s.setUart n { s.uart n with tx := (s.uart n).tx.tail }

/-- `UartChange(n, s, t, g)` (R110). -/
def uartChangeMove (n : UartId) (status : BitVec Config.uartStatusW) (ready : Bool)
    (rxreg : BitVec Config.uartRxRegW) (s : State) : State :=
  s.setUart n { s.uart n with status := status, txReady := ready, rxreg := rxreg }

/-- R128 step 3. -/
def armBusMove (s : State) : State := { s with startup := { s.startup with busArmed := true } }

/-- R128 step 4; the order of steps 3 and 4 is not given. -/
def startClockMove (s : State) : State := { s with startup := { s.startup with clockStarted := true } }

/-- R128 step 5: both steps before it precede the release. -/
def releaseMasterMove (s : State) : State :=
  if s.startup.busArmed && s.startup.clockStarted then
    { s with startup := { s.startup with masterReleased := true } }
  else s

/-- One step of an agent of the environment. -/
def environmentMove (m : Move) (s : State) : State :=
  match m with
  | .pushWrite w => pushWriteMove w s
  | .pushRead q => pushReadMove q s
  | .popResponse => popResponseMove s
  | .ledDriverPop => ledDriverPopMove s
  | .uartReceive n c => uartReceiveMove n c s
  | .uartTransmit n => uartTransmitMove n s
  | .uartChange n status ready rxreg => uartChangeMove n status ready rxreg s
  | .armBus => armBusMove s
  | .startClock => startClockMove s
  | .releaseMaster => releaseMasterMove s

end Sys2Proof.Machine
end

