-- ==== Sys2Proof/Syntax.lean ====
section
/-! DEFINITION. The operations of the bus (30_encoding.md R55, opcode_table.json) as one inductive, the queue a request
word arrives in, and the targets of the address decoder (40_dispatch_and_decode.md R68). -/

namespace Sys2Proof

/-- Which request queue a word arrives in: the tag of the request (R49). -/
inductive Channel where
  /-- `WQ`: the word is a write request, format WREQ. -/
  | write
  /-- `RQ`: the word is a read request, format RREQ. -/
  | read
  deriving DecidableEq, Repr

/-- What the address decoder answers (R68). -/
inductive Target where
  | u0data
  | u0stat
  | u1data
  | u1stat
  | ledctl
  | ledb
  | ledr
  | ledg
  | fdata
  | faddr0
  | faddr1
  | faddr2
  | unmapped
  deriving DecidableEq, Repr

/-- The twelve mapped bus addresses (R6, R38). -/
def mappedAddresses : List Byte :=
  [0x00, 0x02, 0x08, 0x0A, 0x80, 0x82, 0x84, 0x86, 0x90, 0x92, 0x94, 0x96]

/-- One bus operation: one constructor for each mnemonic of R55. `d` is the data byte of a write request whose address
alone chooses the operation, `v` the data byte of a write to `LEDCTL`, `a` an unmapped address. -/
inductive Instr where
  /-- `WR_U0DATA` (R101) -/
  | wrU0Data (d : Byte)
  /-- `WR_U0STAT` (R107) -/
  | wrU0Stat (d : Byte)
  /-- `WR_U1DATA` (R102) -/
  | wrU1Data (d : Byte)
  /-- `WR_U1STAT` (R108) -/
  | wrU1Stat (d : Byte)
  /-- `WR_LEDCTL.RESET` (R78) -/
  | wrLedctlReset
  /-- `WR_LEDCTL.LATCH` (R79) -/
  | wrLedctlLatch
  /-- `WR_LEDCTL.IGNORE` (R77): `v` in 250..253 -/
  | wrLedctlIgnore (v : Byte)
  /-- `WR_LEDCTL.SELECT` (R76): `v` in 0..249 -/
  | wrLedctlSelect (v : Byte)
  /-- `WR_LEDB` (R83) -/
  | wrLedB (d : Byte)
  /-- `WR_LEDR` (R84) -/
  | wrLedR (d : Byte)
  /-- `WR_LEDG` (R85) -/
  | wrLedG (d : Byte)
  /-- `WR_FDATA` (R98) -/
  | wrFdata (d : Byte)
  /-- `WR_FADDR0` (R91) -/
  | wrFaddr0 (d : Byte)
  /-- `WR_FADDR1` (R92) -/
  | wrFaddr1 (d : Byte)
  /-- `WR_FADDR2` (R93) -/
  | wrFaddr2 (d : Byte)
  /-- `WR_UNMAPPED` (R71): `a` is none of the twelve mapped addresses -/
  | wrUnmapped (a : Byte) (d : Byte)
  /-- `RD_U0DATA` (R103) -/
  | rdU0Data
  /-- `RD_U0STAT` (R105) -/
  | rdU0Stat
  /-- `RD_U1DATA` (R104) -/
  | rdU1Data
  /-- `RD_U1STAT` (R106) -/
  | rdU1Stat
  /-- `RD_LEDCTL` (R82) -/
  | rdLedctl
  /-- `RD_LEDB` (R86) -/
  | rdLedB
  /-- `RD_LEDR` (R87) -/
  | rdLedR
  /-- `RD_LEDG` (R88) -/
  | rdLedG
  /-- `RD_FDATA` (R97) -/
  | rdFdata
  /-- `RD_FADDR0` (R94) -/
  | rdFaddr0
  /-- `RD_FADDR1` (R95) -/
  | rdFaddr1
  /-- `RD_FADDR2` (R96) -/
  | rdFaddr2
  /-- `RD_UNMAPPED` (R72): `a` is none of the twelve mapped addresses -/
  | rdUnmapped (a : Byte)
  deriving DecidableEq, Repr

end Sys2Proof
end

