-- ==== Sys2Proof/WellFormed.lean ====
section
/-! DEFINITION. The operand conditions of the operation map (30_encoding.md R55, column "data condition"): which terms
of `Instr` stand for a request. -/

namespace Sys2Proof

/-- The operands meet the operation's condition in R55. -/
def Instr.wellFormed : Instr → Bool
  | .wrU0Data _ => true
  | .wrU0Stat _ => true
  | .wrU1Data _ => true
  | .wrU1Stat _ => true
  | .wrLedctlReset => true
  | .wrLedctlLatch => true
  | .wrLedctlIgnore v => decide (250 ≤ v.toNat ∧ v.toNat ≤ 253)
  | .wrLedctlSelect v => decide (v.toNat ≤ 249)
  | .wrLedB _ => true
  | .wrLedR _ => true
  | .wrLedG _ => true
  | .wrFdata _ => true
  | .wrFaddr0 _ => true
  | .wrFaddr1 _ => true
  | .wrFaddr2 _ => true
  | .wrUnmapped a _ => decide (a ∉ mappedAddresses)
  | .rdU0Data => true
  | .rdU0Stat => true
  | .rdU1Data => true
  | .rdU1Stat => true
  | .rdLedctl => true
  | .rdLedB => true
  | .rdLedR => true
  | .rdLedG => true
  | .rdFdata => true
  | .rdFaddr0 => true
  | .rdFaddr1 => true
  | .rdFaddr2 => true
  | .rdUnmapped a => decide (a ∉ mappedAddresses)

end Sys2Proof
end

