-- ==== Sys2Proof/Decode.lean ====
section
/-! DEFINITION. From request words to operations and back (30_encoding.md, 40_dispatch_and_decode.md R68). Decoding is
total: no queue word is illegal (R58). -/

namespace Sys2Proof

/-! ## Fields of the request words (R50, R51, R57 items 1 and 2) -/

/-- `address = WREQ[15:8]`. -/
def wreqAddress (w : Word) : Byte := w.extractLsb' Config.wrAddrLo 8
/-- `data = WREQ[7:0]`. -/
def wreqData (w : Word) : Byte := w.extractLsb' Config.wrDataLo 8
/-- `address = RREQ[7:0]`. -/
def rreqAddress (q : Word) : Byte := q.extractLsb' Config.rdAddrLo 8

/-! ## The address decoder and the operation map -/

/-- The address decoder: exact match on all 8 bits, total (R54, R68). -/
def decodeAddress (a : Byte) : Target :=
  if a = 0x00 then .u0data
  else if a = 0x02 then .u0stat
  else if a = 0x08 then .u1data
  else if a = 0x0A then .u1stat
  else if a = 0x80 then .ledctl
  else if a = 0x82 then .ledb
  else if a = 0x84 then .ledr
  else if a = 0x86 then .ledg
  else if a = 0x90 then .fdata
  else if a = 0x92 then .faddr0
  else if a = 0x94 then .faddr1
  else if a = 0x96 then .faddr2
  else .unmapped

/-- A write to `LEDCTL` is decoded further by its data, the tests in the source's order (R56). -/
def decodeLedctl (v : Byte) : Instr :=
  if v = Config.ledResetCode then .wrLedctlReset
  else if v = Config.ledLatchCode then .wrLedctlLatch
  else if 250 ≤ v.toNat then .wrLedctlIgnore v
  else .wrLedctlSelect v

/-- The operation a write to address `a` with data `d` stands for (R55, R64). -/
def decodeWriteAt (a d : Byte) : Instr :=
  match decodeAddress a with
  | .u0data => .wrU0Data d
  | .u0stat => .wrU0Stat d
  | .u1data => .wrU1Data d
  | .u1stat => .wrU1Stat d
  | .ledctl => decodeLedctl d
  | .ledb => .wrLedB d
  | .ledr => .wrLedR d
  | .ledg => .wrLedG d
  | .fdata => .wrFdata d
  | .faddr0 => .wrFaddr0 d
  | .faddr1 => .wrFaddr1 d
  | .faddr2 => .wrFaddr2 d
  | .unmapped => .wrUnmapped a d

/-- The operation a read of address `a` stands for (R55, R65). -/
def decodeReadAt (a : Byte) : Instr :=
  match decodeAddress a with
  | .u0data => .rdU0Data
  | .u0stat => .rdU0Stat
  | .u1data => .rdU1Data
  | .u1stat => .rdU1Stat
  | .ledctl => .rdLedctl
  | .ledb => .rdLedB
  | .ledr => .rdLedR
  | .ledg => .rdLedG
  | .fdata => .rdFdata
  | .faddr0 => .rdFaddr0
  | .faddr1 => .rdFaddr1
  | .faddr2 => .rdFaddr2
  | .unmapped => .rdUnmapped a

/-- The operation of a WREQ word; bits 31:16 are ignored (R50). -/
def decodeWrite (w : Word) : Instr := decodeWriteAt (wreqAddress w) (wreqData w)

/-- The operation of an RREQ word; bits 31:8 are ignored (R51). -/
def decodeRead (q : Word) : Instr := decodeReadAt (rreqAddress q)

/-- The operation of a word by the queue it arrives in (R49). -/
def decodeRequest (c : Channel) (w : Word) : Instr :=
  match c with
  | .write => decodeWrite w
  | .read => decodeRead w

/-! ## The encoder (R60) -/

/-- The WREQ word of `W a, d`, upper 16 bits zero (R60). -/
def wreqWord (a d : Byte) : Word :=
  (a.setWidth 32 <<< Config.wrAddrLo) ||| (d.setWidth 32 <<< Config.wrDataLo)

/-- The RREQ word of `R a`, upper 24 bits zero (R60). -/
def rreqWord (a : Byte) : Word := a.setWidth 32 <<< Config.rdAddrLo

/-- The queue an operation's word travels in (R55, column "format"). -/
def Instr.channel : Instr → Channel
  | .wrU0Data _ => .write
  | .wrU0Stat _ => .write
  | .wrU1Data _ => .write
  | .wrU1Stat _ => .write
  | .wrLedctlReset => .write
  | .wrLedctlLatch => .write
  | .wrLedctlIgnore _ => .write
  | .wrLedctlSelect _ => .write
  | .wrLedB _ => .write
  | .wrLedR _ => .write
  | .wrLedG _ => .write
  | .wrFdata _ => .write
  | .wrFaddr0 _ => .write
  | .wrFaddr1 _ => .write
  | .wrFaddr2 _ => .write
  | .wrUnmapped _ _ => .write
  | .rdU0Data => .read
  | .rdU0Stat => .read
  | .rdU1Data => .read
  | .rdU1Stat => .read
  | .rdLedctl => .read
  | .rdLedB => .read
  | .rdLedR => .read
  | .rdLedG => .read
  | .rdFdata => .read
  | .rdFaddr0 => .read
  | .rdFaddr1 => .read
  | .rdFaddr2 => .read
  | .rdUnmapped _ => .read

/-- The queue word of an operation, ignored bits zero (R55, R60). -/
def encode : Instr → Word
  | .wrU0Data d => wreqWord 0x00 d
  | .wrU0Stat d => wreqWord 0x02 d
  | .wrU1Data d => wreqWord 0x08 d
  | .wrU1Stat d => wreqWord 0x0A d
  | .wrLedctlReset => wreqWord 0x80 0xFE
  | .wrLedctlLatch => wreqWord 0x80 0xFF
  | .wrLedctlIgnore v => wreqWord 0x80 v
  | .wrLedctlSelect v => wreqWord 0x80 v
  | .wrLedB d => wreqWord 0x82 d
  | .wrLedR d => wreqWord 0x84 d
  | .wrLedG d => wreqWord 0x86 d
  | .wrFdata d => wreqWord 0x90 d
  | .wrFaddr0 d => wreqWord 0x92 d
  | .wrFaddr1 d => wreqWord 0x94 d
  | .wrFaddr2 d => wreqWord 0x96 d
  | .wrUnmapped a d => wreqWord a d
  | .rdU0Data => rreqWord 0x00
  | .rdU0Stat => rreqWord 0x02
  | .rdU1Data => rreqWord 0x08
  | .rdU1Stat => rreqWord 0x0A
  | .rdLedctl => rreqWord 0x80
  | .rdLedB => rreqWord 0x82
  | .rdLedR => rreqWord 0x84
  | .rdLedG => rreqWord 0x86
  | .rdFdata => rreqWord 0x90
  | .rdFaddr0 => rreqWord 0x92
  | .rdFaddr1 => rreqWord 0x94
  | .rdFaddr2 => rreqWord 0x96
  | .rdUnmapped a => rreqWord a

/-! ## A bare number as a request (the host's interface; log entry 13)

A bare number does not say which queue it arrives in, and the queue is the tag (R49). DESIGN CHOICE, used by nothing
but the two functions of the host's interface. -/

/-- The queue a bare number of `nbits` bits is taken to arrive in: an 8-bit number is an RREQ word cut to its address
field, a number of 9 to 31 bits a WREQ word cut to its fields, and a whole 32-bit word an RREQ word when bits 31:8 are
zero, as in the word of `R a` (R60), and a WREQ word otherwise. -/
def tableChannel (nbits w : Nat) : Channel :=
  if nbits ≤ 8 then .read
  else if nbits < 32 then .write
  else if w < 256 then .read
  else .write

/-- Why a bare number is no request. -/
inductive DecodeReject where
  /-- `nbits` is 0 or more than 32, or `w` has a bit at or above `nbits`: not one queue word (R49: every transaction is
  one word). -/
  | notOneQueueWord
  deriving DecidableEq, Repr

/-- The operation of a bare number, or why there is none. -/
def decodeBits (nbits w : Nat) : Except DecodeReject Instr :=
  if 1 ≤ nbits ∧ nbits ≤ 32 ∧ w < 2 ^ nbits then
    .ok (decodeRequest (tableChannel nbits w) (BitVec.ofNat 32 w))
  else .error .notOneQueueWord

/-- `decodeBits` with the reason dropped. -/
def decodeTableWord (nbits w : Nat) : Option Instr :=
  match decodeBits nbits w with
  | .ok i => some i
  | .error _ => none

end Sys2Proof
end

