-- ==== Sys2Proof/Machine/Mux.lean ====
section
/-! DEFINITION. The read multiplexer of the register bank (40_dispatch_and_decode.md R67) and the service of a read
request once it is decoded (R65). -/

namespace Sys2Proof.Machine

/-- `ReadMux`: the response value chosen by the decoded address, and the state after the read's side effect; only the
input that is selected has one (R67). -/
def readMux (t : Target) (s : State) : Byte × State :=
  match t with
  | .u0data => uartReadData .u0 s
  | .u0stat => (statusByte s.uart0.status, s)
  | .u1data => uartReadData .u1 s
  | .u1stat => (statusByte s.uart1.status, s)
  | .ledctl => (BitVec.ofNat 8 s.selectedIndex.val, s)
  | .ledb => (s.selectedPixel.b, s)
  | .ledr => (s.selectedPixel.r, s)
  | .ledg => (s.selectedPixel.g, s)
  | .fdata => flashReadAndAdvance s
  | .faddr0 => (pointerByte0 s.pointer, s)
  | .faddr1 => (pointerByte1 s.pointer, s)
  | .faddr2 => (pointerNibble2 s.pointer, s)
  | .unmapped => (Config.unmappedRead, s)

/-- `ServiceRead` after the decode: the value and its side effect now, the response's push in the next step (R65). -/
def serviceRead (t : Target) (s : State) : Host.Outcome State Fault Refusal :=
  .next (respond (readMux t s).1 (readMux t s).2)

end Sys2Proof.Machine
end

