-- ==== Sys2Proof/Machine/Flash.lean ====
section
/-! DEFINITION. The flash auto-increment address controller (42_flash.md). -/

namespace Sys2Proof.Machine

/-- `WR_FADDR0` (R91). -/
def execWrFaddr0 (d : Byte) (s : State) : Host.Outcome State Fault Refusal :=
  .next { s with pointer := mergeByte0 d s.pointer }

/-- `WR_FADDR1` (R92). -/
def execWrFaddr1 (d : Byte) (s : State) : Host.Outcome State Fault Refusal :=
  .next { s with pointer := mergeByte1 d s.pointer }

/-- `WR_FADDR2` (R93). -/
def execWrFaddr2 (d : Byte) (s : State) : Host.Outcome State Fault Refusal :=
  .next { s with pointer := mergeNibble2 d s.pointer }

/-- `RD_FADDR0` (R94). -/
def execRdFaddr0 (s : State) : Host.Outcome State Fault Refusal := serviceRead .faddr0 s

/-- `RD_FADDR1` (R95). -/
def execRdFaddr1 (s : State) : Host.Outcome State Fault Refusal := serviceRead .faddr1 s

/-- `RD_FADDR2` (R96). -/
def execRdFaddr2 (s : State) : Host.Outcome State Fault Refusal := serviceRead .faddr2 s

/-- `RD_FDATA` (R97): the hardware's one post-incrementing read. -/
def execRdFdata (s : State) : Host.Outcome State Fault Refusal := serviceRead .fdata s

/-- `WR_FDATA` (R98): popped and discarded; the cursor does not move. -/
def execWrFdata (_d : Byte) (s : State) : Host.Outcome State Fault Refusal := .next s

end Sys2Proof.Machine
end

