-- ==== Sys2Proof/Machine/Led.lean ====
section
/-! DEFINITION. The LED pixel-select and latch state machine (41_led.md). -/

namespace Sys2Proof.Machine

/-! ## Writes to the control register -/

/-- `WR_LEDCTL.RESET` (R78): two LED variables only; `buf` is not changed. -/
def execWrLedctlReset (s : State) : Host.Outcome State Fault Refusal :=
  .next { s with pixelCount := 1, selectedIndex := 0 }

/-- `WR_LEDCTL.LATCH` (R79): the words are emitted by the steps that follow (R80). -/
def execWrLedctlLatch (s : State) : Host.Outcome State Fault Refusal :=
  .next { s with phase := .latchEmit 0 }

/-- `WR_LEDCTL.IGNORE` (R77). -/
def execWrLedctlIgnore (_v : Byte) (s : State) : Host.Outcome State Fault Refusal := .next s

/-- `WR_LEDCTL.SELECT` (R76). A term with `v` above 249 is not well-formed and no word decodes to it; it selects
nothing, as no value above 249 ever becomes an index (R33; log entry 16). -/
def execWrLedctlSelect (v : Byte) (s : State) : Host.Outcome State Fault Refusal :=
  if h : v.toNat < 250 then
    .next { s with
      selectedIndex := ⟨v.toNat, h⟩
      pixelCount := if s.pixelCount.val ≤ v.toNat then ⟨v.toNat + 1, by omega⟩ else s.pixelCount }
  else .next s

/-- `RD_LEDCTL` (R82). -/
def execRdLedctl (s : State) : Host.Outcome State Fault Refusal := serviceRead .ledctl s

/-! ## Colour channels -/

/-- `WR_LEDB` (R83). -/
def execWrLedB (d : Byte) (s : State) : Host.Outcome State Fault Refusal :=
  .next (s.setSelectedPixel { s.selectedPixel with b := d })

/-- `WR_LEDR` (R84). -/
def execWrLedR (d : Byte) (s : State) : Host.Outcome State Fault Refusal :=
  .next (s.setSelectedPixel { s.selectedPixel with r := d })

/-- `WR_LEDG` (R85). -/
def execWrLedG (d : Byte) (s : State) : Host.Outcome State Fault Refusal :=
  .next (s.setSelectedPixel { s.selectedPixel with g := d })

/-- `RD_LEDB` (R86). -/
def execRdLedB (s : State) : Host.Outcome State Fault Refusal := serviceRead .ledb s

/-- `RD_LEDR` (R87). -/
def execRdLedR (s : State) : Host.Outcome State Fault Refusal := serviceRead .ledr s

/-- `RD_LEDG` (R88). -/
def execRdLedG (s : State) : Host.Outcome State Fault Refusal := serviceRead .ledg s

end Sys2Proof.Machine
end

