-- ==== Sys2Proof/Machine/Serial.lean ====
section
/-! DEFINITION. The UART register proxy (43_uart.md). -/

namespace Sys2Proof.Machine

/-- `WR_U0DATA` (R101): the byte is appended to `uart[0].tx` by the `UartTx` steps that follow. -/
def execWrU0Data (d : Byte) (s : State) : Host.Outcome State Fault Refusal :=
  .next { s with phase := .uartTx .u0 d }

/-- `WR_U1DATA` (R102). -/
def execWrU1Data (d : Byte) (s : State) : Host.Outcome State Fault Refusal :=
  .next { s with phase := .uartTx .u1 d }

/-- `RD_U0DATA` (R103). -/
def execRdU0Data (s : State) : Host.Outcome State Fault Refusal := serviceRead .u0data s

/-- `RD_U1DATA` (R104). -/
def execRdU1Data (s : State) : Host.Outcome State Fault Refusal := serviceRead .u1data s

/-- `RD_U0STAT` (R105). -/
def execRdU0Stat (s : State) : Host.Outcome State Fault Refusal := serviceRead .u0stat s

/-- `RD_U1STAT` (R106). -/
def execRdU1Stat (s : State) : Host.Outcome State Fault Refusal := serviceRead .u1stat s

/-- `WR_U0STAT` (R107): popped and discarded; nothing is forwarded to the transceiver. -/
def execWrU0Stat (_d : Byte) (s : State) : Host.Outcome State Fault Refusal := .next s

/-- `WR_U1STAT` (R108): popped and discarded. -/
def execWrU1Stat (_d : Byte) (s : State) : Host.Outcome State Fault Refusal := .next s

end Sys2Proof.Machine
end

