-- ==== Sys2Proof/Machine/Unmapped.lean ====
section
/-! DEFINITION. The operations on unmapped addresses (40_dispatch_and_decode.md R71, R72). -/

namespace Sys2Proof.Machine

/-- `WR_UNMAPPED` (R71): popped and discarded. -/
def execWrUnmapped (_a _d : Byte) (s : State) : Host.Outcome State Fault Refusal := .next s

/-- `RD_UNMAPPED` (R72): the response is 0. -/
def execRdUnmapped (_a : Byte) (s : State) : Host.Outcome State Fault Refusal := serviceRead .unmapped s

end Sys2Proof.Machine
end

