-- ==== Sys2Proof/Machine/Dispatch.lean ====
section
/-! DEFINITION. One arm for each operation of the map (30_encoding.md R55). The word has left its queue when `exec`
runs (40_dispatch_and_decode.md R62). -/

namespace Sys2Proof.Machine

def exec (i : Instr) (s : State) : Host.Outcome State Fault Refusal :=
  match i with
  | .wrU0Data d => Sys2Proof.Machine.execWrU0Data d s
  | .wrU0Stat d => Sys2Proof.Machine.execWrU0Stat d s
  | .wrU1Data d => Sys2Proof.Machine.execWrU1Data d s
  | .wrU1Stat d => Sys2Proof.Machine.execWrU1Stat d s
  | .wrLedctlReset => Sys2Proof.Machine.execWrLedctlReset s
  | .wrLedctlLatch => Sys2Proof.Machine.execWrLedctlLatch s
  | .wrLedctlIgnore v => Sys2Proof.Machine.execWrLedctlIgnore v s
  | .wrLedctlSelect v => Sys2Proof.Machine.execWrLedctlSelect v s
  | .wrLedB d => Sys2Proof.Machine.execWrLedB d s
  | .wrLedR d => Sys2Proof.Machine.execWrLedR d s
  | .wrLedG d => Sys2Proof.Machine.execWrLedG d s
  | .wrFdata d => Sys2Proof.Machine.execWrFdata d s
  | .wrFaddr0 d => Sys2Proof.Machine.execWrFaddr0 d s
  | .wrFaddr1 d => Sys2Proof.Machine.execWrFaddr1 d s
  | .wrFaddr2 d => Sys2Proof.Machine.execWrFaddr2 d s
  | .wrUnmapped a d => Sys2Proof.Machine.execWrUnmapped a d s
  | .rdU0Data => Sys2Proof.Machine.execRdU0Data s
  | .rdU0Stat => Sys2Proof.Machine.execRdU0Stat s
  | .rdU1Data => Sys2Proof.Machine.execRdU1Data s
  | .rdU1Stat => Sys2Proof.Machine.execRdU1Stat s
  | .rdLedctl => Sys2Proof.Machine.execRdLedctl s
  | .rdLedB => Sys2Proof.Machine.execRdLedB s
  | .rdLedR => Sys2Proof.Machine.execRdLedR s
  | .rdLedG => Sys2Proof.Machine.execRdLedG s
  | .rdFdata => Sys2Proof.Machine.execRdFdata s
  | .rdFaddr0 => Sys2Proof.Machine.execRdFaddr0 s
  | .rdFaddr1 => Sys2Proof.Machine.execRdFaddr1 s
  | .rdFaddr2 => Sys2Proof.Machine.execRdFaddr2 s
  | .rdUnmapped a => Sys2Proof.Machine.execRdUnmapped a s

end Sys2Proof.Machine
end

