-- ==== Sys2Proof/Machine/Loop.lean ====
section
/-! DEFINITION. The dispatch loop (40_dispatch_and_decode.md R62 to R66, R69). -/

namespace Sys2Proof.Machine

/-- The poll of the two request queues, one atomic observation (R70): the oldest write if there is one, else the oldest
read, decoded, with its word popped; `none` when both are empty. -/
def poll (s : State) : Option (Instr × State) :=
  match s.wq with
  | w :: rest => some (decodeWrite w, { s with wq := rest })
  | [] =>
    match s.rq with
    | q :: rest => some (decodeRead q, { s with rq := rest })
    | [] => none

/-- One step of the dispatcher (R62). Idle with nothing pending it spins (R69). -/
def dispatcherStep (s : State) : Host.Outcome State Fault Refusal :=
  match s.phase with
  | .idle =>
    match poll s with
    | some (i, s') => exec i s'
    | none => .next s
  | .latchEmit i => .next (latchStep i s)
  | .uartTx n b => .next (uartTxStep n b s)
  | .respPush w => .next (respPushStep w s)

end Sys2Proof.Machine
end

