-- ==== Sys2Proof/Machine/Turns.lean ====
section
/-! DEFINITION. Whose step comes next (60_exceptions.md R122): the turns a state lists, then round after round of the
environment's moves, each closed by a turn of the dispatcher, which so is "scheduled again and again" (00_scope.md R4; log
entry 1). -/

namespace Sys2Proof.Machine

/-- The turns of one round. -/
def roundTurns (n : Nat) : List Turn := (Config.round n).map .environment ++ [.dispatcher]

/-- The turns at hand: those listed, or the next round's when none is listed. -/
def Turns.atHand (u : Turns) : List Turn := if u.listed.isEmpty then roundTurns u.rounds else u.listed

/-- The turn due now; there always is one at hand. -/
def Turns.next (u : Turns) : Turn := u.atHand.headD .dispatcher

/-- The turns after the one due now. -/
def Turns.taken (u : Turns) : Turns :=
  ⟨u.atHand.tail, if u.listed.isEmpty then u.rounds + 1 else u.rounds⟩

/-- The turns after the next `n`. -/
def Turns.takenFor : Nat → Turns → Turns
  | 0, u => u
  | n + 1, u => u.taken.takenFor n

/-- The turn due now. -/
def State.nextTurn (s : State) : Turn := s.turns.next

/-- The turn due `k` turns from now. -/
def State.turnAt (k : Nat) (s : State) : Turn := (s.turns.takenFor k).next

/-- `s` with its next turn taken. -/
def State.turnTaken (s : State) : State := { s with turns := s.turns.taken }

/-- `s` with its next `n` turns taken. -/
def State.turnsTaken (n : Nat) (s : State) : State := { s with turns := s.turns.takenFor n }

end Sys2Proof.Machine
end

