-- ==== Sys2Proof/Machine/Step.lean ====
section
/-! DEFINITION. One step of the machine: one step of one agent (00_scope.md R4, 60_exceptions.md R122). -/

namespace Sys2Proof.Machine

/-- A step of the agent whose turn it is. In a state whose `overrun` is set the machine has stopped with a fault (R113,
log entry 3). -/
def step (s : State) : Host.Outcome State Fault Refusal :=
  if s.overrun then .fault .overrun
  else
    match s.nextTurn with
    | .dispatcher => dispatcherStep s.turnTaken
    | .environment m => .next (environmentMove m s.turnTaken)

/-- `s` with the bare number `w` of `nbits` bits as the request the very next step services: it stands in the head slot
of the queue `tableChannel` gives it, a pending write is taken out of a read's way, the dispatcher is idle and moves
next, and no overrun is recorded (log entry 14). -/
def State.withFetchWord (s : State) (nbits w : Nat) : State :=
  match tableChannel nbits w with
  | .write =>
    { s with
      wq := BitVec.ofNat 32 w :: s.wq.tail
      phase := .idle
      turns := ⟨[.dispatcher], s.turns.rounds⟩
      overrun := false }
  | .read =>
    { s with
      wq := []
      rq := BitVec.ofNat 32 w :: s.rq.tail
      phase := .idle
      turns := ⟨[.dispatcher], s.turns.rounds⟩
      overrun := false }

end Sys2Proof.Machine
end

