-- ==== Sys2Proof/Safety.lean ====
section
/-! DEFINITION. The terms claims are stated in: whose turn it is, what counts as a good state (10_state.md R21, R11 to
R15, 30_encoding.md R52, R53), and the launch state that holds until the master is released (70_reset_and_hazards.md
R129). -/

namespace Sys2Proof.Machine

/-! ## Whose turn it is -/

/-- No overrun is recorded and the next step is the dispatcher's. -/
def State.dispatcherMoves (s : State) : Prop := s.overrun = false ∧ s.nextTurn = .dispatcher

/-- No overrun is recorded and the next `n` steps are the dispatcher's. -/
def State.dispatcherMovesFor (n : Nat) (s : State) : Prop :=
  s.overrun = false ∧ ∀ k < n, s.turnAt k = .dispatcher

/-- No overrun is recorded and the next step is the environment's move `m`. -/
def State.environmentMoves (m : Move) (s : State) : Prop :=
  s.overrun = false ∧ s.nextTurn = .environment m

/-! ## Fairness (00_scope.md R4, 70_reset_and_hazards.md R143)

The dispatcher's is built into the turns of every state (Sys2Proof/Machine/Turns.lean). That of the other agents is a premise
of a claim about runs under a given order of turns (log entry 29). -/

/-- `s` with the turn `t` due before those it has. -/
def State.withTurn (t : Turn) (s : State) : State :=
  { s with turns := ⟨t :: s.turns.listed, s.turns.rounds⟩ }

/-- `n` steps from `s`, the turns in the order `f`. -/
def runUnder (f : Nat → Turn) : Nat → State → Host.Outcome State Fault Refusal
  | 0, s => .next s
  | n + 1, s =>
    match step (s.withTurn (f 0)) with
    | .next t => runUnder (fun k => f (k + 1)) n t
    | .fault r => .fault r
    | .refused r => .refused r

/-- The turns of every agent whose step the spec gives without a value of the environment's choice. -/
def fairTurns : List Turn :=
  [.dispatcher, .environment .popResponse, .environment .ledDriverPop, .environment (.uartTransmit .u0),
    .environment (.uartTransmit .u1), .environment .armBus, .environment .startClock, .environment .releaseMaster]

/-- Weak fairness: each of these turns comes again and again. A turn whose step is not enabled changes nothing, so a step
that stays enabled is taken in the end. -/
def fair (f : Nat → Turn) : Prop := ∀ t ∈ fairTurns, ∀ n, ∃ k, n ≤ k ∧ f k = t

/-! ## Good states -/

/-- The logical length and the two indexes into it: R21 items 2 and 3, and the range of `LatchEmit(i)` in R11. Item 1 of
R21 is the type of `selectedIndex`. -/
def State.ledInv (s : State) : Prop :=
  1 ≤ s.pixelCount.val ∧ s.selectedIndex.val < s.pixelCount.val ∧
    ∀ i, s.phase = .latchEmit i → i.val < s.pixelCount.val

/-- Each queue holds at most its capacity (R12 to R15). -/
def State.queueInv (s : State) : Prop :=
  s.wq.length ≤ Config.wqDepth ∧ s.rq.length ≤ Config.rqDepth ∧
    s.rsp.length ≤ Config.rspDepth ∧ s.ledq.length ≤ Config.ledqDepth

/-- A RESP word: bits 31:8 are zero (R52). -/
def isRespWord (w : Word) : Prop := w.extractLsb' 8 24 = 0

/-- An LEDW word: bits 7:0 are zero (R53). -/
def isLedWord (w : Word) : Prop := w.extractLsb' 0 8 = 0

/-- What the controller puts into its two output queues has their formats (R14, R15, R52, R53). -/
def State.formatInv (s : State) : Prop :=
  (∀ w ∈ s.rsp, isRespWord w) ∧ (∀ w ∈ s.ledq, isLedWord w) ∧
    ∀ w, s.phase = .respPush w → isRespWord w

/-- The master is released only after the bus logic and the clock generator (R128). -/
def State.startupInv (s : State) : Prop :=
  s.startup.masterReleased = true → s.startup.busArmed = true ∧ s.startup.clockStarted = true

/-- The controller's own state and its queues are as controller reset leaves them (R28, R129). -/
def State.atLaunch (s : State) : Prop :=
  s.pixelCount = 1 ∧ s.selectedIndex = 0 ∧ s.buf = bufReset ∧ s.pointer = 0 ∧ s.phase = .idle ∧
    s.wq = [] ∧ s.rq = [] ∧ s.rsp = [] ∧ s.ledq = [] ∧ s.overrun = false

/-- Until the master is released the state is the launch state (R129). -/
def State.launchInv (s : State) : Prop := s.startup.masterReleased = false → s.atLaunch

/-- What every step keeps. -/
def State.inv (s : State) : Prop :=
  s.ledInv ∧ s.queueInv ∧ s.formatInv ∧ s.startupInv

/-! ## Counting reads -/

/-- 1 while a popped read waits for room in `RSP`, else 0 (R11). -/
def State.responsesWaiting (s : State) : Nat :=
  match s.phase with
  | .idle => 0
  | .latchEmit _ => 0
  | .uartTx _ _ => 0
  | .respPush _ => 1

/-- The LED words of pixels `0 .. n-1`, in index order (R79). -/
def State.ledWords (s : State) (n : Nat) : List Word := (s.buf.toList.take n).map ledWord

end Sys2Proof.Machine
end

