-- ==== Sys2Proof/Certificates/Slice0/Obligations.lean ====
section
/-! DEFINITION. The statements for the provers, one `def Obligations.<Name> : Prop` each. A frame is written as an
equation: `t = { s with f := t.f }` says that `t` and `s` agree on every piece of state but `f`. -/

open Sys2Proof Sys2Proof.Machine

/-! ## Decoding -/

/-- Decoding the word of a well-formed operation, in the operation's queue, gives the operation (R55, R60). -/
def Obligations.DecodeEncodeRoundTrip : Prop :=
  ∀ i : Instr, i.wellFormed = true → decodeRequest i.channel (encode i) = i

/-- Every word of either queue is one well-formed operation of that queue, and the operation keeps every bit of the word
that is not ignored (R50, R51, R58; the positions are the spec's decisions D3 and D4, log entry 12). -/
def Obligations.EveryWordIsOneOperation : Prop :=
  ∀ w : Word,
    ((decodeRequest .write w).wellFormed = true ∧ (decodeRequest .write w).channel = .write ∧
      encode (decodeRequest .write w) = w &&& 0x0000FFFF) ∧
    ((decodeRequest .read w).wellFormed = true ∧ (decodeRequest .read w).channel = .read ∧
      encode (decodeRequest .read w) = w &&& 0x000000FF)

/-- The operation map of the write words, row by row (R54, R55, R56, R68). -/
def Obligations.WriteWordsFollowTheOperationMap : Prop :=
  ∀ w : Word,
    (wreqAddress w = 0x00 → decodeWrite w = .wrU0Data (wreqData w)) ∧
    (wreqAddress w = 0x02 → decodeWrite w = .wrU0Stat (wreqData w)) ∧
    (wreqAddress w = 0x08 → decodeWrite w = .wrU1Data (wreqData w)) ∧
    (wreqAddress w = 0x0A → decodeWrite w = .wrU1Stat (wreqData w)) ∧
    (wreqAddress w = 0x80 → (wreqData w).toNat = 254 → decodeWrite w = .wrLedctlReset) ∧
    (wreqAddress w = 0x80 → (wreqData w).toNat = 255 → decodeWrite w = .wrLedctlLatch) ∧
    (wreqAddress w = 0x80 → 250 ≤ (wreqData w).toNat → (wreqData w).toNat ≤ 253 →
      decodeWrite w = .wrLedctlIgnore (wreqData w)) ∧
    (wreqAddress w = 0x80 → (wreqData w).toNat ≤ 249 → decodeWrite w = .wrLedctlSelect (wreqData w)) ∧
    (wreqAddress w = 0x82 → decodeWrite w = .wrLedB (wreqData w)) ∧
    (wreqAddress w = 0x84 → decodeWrite w = .wrLedR (wreqData w)) ∧
    (wreqAddress w = 0x86 → decodeWrite w = .wrLedG (wreqData w)) ∧
    (wreqAddress w = 0x90 → decodeWrite w = .wrFdata (wreqData w)) ∧
    (wreqAddress w = 0x92 → decodeWrite w = .wrFaddr0 (wreqData w)) ∧
    (wreqAddress w = 0x94 → decodeWrite w = .wrFaddr1 (wreqData w)) ∧
    (wreqAddress w = 0x96 → decodeWrite w = .wrFaddr2 (wreqData w)) ∧
    (wreqAddress w ∉ mappedAddresses → decodeWrite w = .wrUnmapped (wreqAddress w) (wreqData w))

/-- The operation map of the read words, row by row (R54, R55, R68). -/
def Obligations.ReadWordsFollowTheOperationMap : Prop :=
  ∀ q : Word,
    (rreqAddress q = 0x00 → decodeRead q = .rdU0Data) ∧
    (rreqAddress q = 0x02 → decodeRead q = .rdU0Stat) ∧
    (rreqAddress q = 0x08 → decodeRead q = .rdU1Data) ∧
    (rreqAddress q = 0x0A → decodeRead q = .rdU1Stat) ∧
    (rreqAddress q = 0x80 → decodeRead q = .rdLedctl) ∧
    (rreqAddress q = 0x82 → decodeRead q = .rdLedB) ∧
    (rreqAddress q = 0x84 → decodeRead q = .rdLedR) ∧
    (rreqAddress q = 0x86 → decodeRead q = .rdLedG) ∧
    (rreqAddress q = 0x90 → decodeRead q = .rdFdata) ∧
    (rreqAddress q = 0x92 → decodeRead q = .rdFaddr0) ∧
    (rreqAddress q = 0x94 → decodeRead q = .rdFaddr1) ∧
    (rreqAddress q = 0x96 → decodeRead q = .rdFaddr2) ∧
    (rreqAddress q ∉ mappedAddresses → decodeRead q = .rdUnmapped (rreqAddress q))

/-- A word of each family, written out from R50, R51 and R60, decodes to the operation it stands for. -/
def Obligations.SampleWordsDecode : Prop :=
  decodeRequest .write 0x00000041 = .wrU0Data 0x41 ∧
  decodeRequest .write 0x00008005 = .wrLedctlSelect 0x05 ∧
  decodeRequest .write 0xDEAD8005 = .wrLedctlSelect 0x05 ∧
  decodeRequest .write 0x000080FF = .wrLedctlLatch ∧
  decodeRequest .write 0x000096AF = .wrFaddr2 0xAF ∧
  decodeRequest .write 0x000081FF = .wrUnmapped 0x81 0xFF ∧
  decodeRequest .read 0x0000000A = .rdU1Stat ∧
  decodeRequest .read 0xFFFFFF80 = .rdLedctl ∧
  decodeRequest .read 0x00000090 = .rdFdata ∧
  decodeRequest .read 0x00000001 = .rdUnmapped 0x01

/-! ## The dispatch loop -/

/-- A step of the dispatcher runs the decoded request: idle, the oldest write if there is one, else the oldest read,
its word popped and the turn taken; with nothing pending it spins (R62, R64, R65, R69). -/
def Obligations.StepRunsTheDecodedRequest : Prop :=
  ∀ s : State, s.dispatcherMoves → s.phase = .idle →
    (∀ w ws, s.wq = w :: ws → step s = exec (decodeRequest .write w) { s.turnTaken with wq := ws }) ∧
    (∀ q qs, s.wq = [] → s.rq = q :: qs →
      step s = exec (decodeRequest .read q) { s.turnTaken with rq := qs }) ∧
    (s.wq = [] → s.rq = [] → step s = .next s.turnTaken)

/-- Every operation completes, in every state and for all operands, and its own effect pops and pushes no queue and
records no overrun (R111, R58, R62). For the ill-formed select, to which no word decodes, that is the model's choice (log
entry 16). -/
def Obligations.EveryOperationCompletes : Prop :=
  ∀ (i : Instr) (s : State), ∃ t, exec i s = .next t ∧
    t.wq = s.wq ∧ t.rq = s.rq ∧ t.rsp = s.rsp ∧ t.ledq = s.ledq ∧
    t.overrun = s.overrun ∧ t.startup = s.startup ∧ t.turns = s.turns

/-- While `phase` is not `Idle` the dispatcher pops nothing, and requests that arrive meanwhile wait in their queues
(R63). -/
def Obligations.NothingIsPoppedWhileARequestIsInService : Prop :=
  ∀ s : State, s.phase ≠ .idle →
    (s.dispatcherMoves → ∃ t, step s = .next t ∧ t.wq = s.wq ∧ t.rq = s.rq) ∧
    (∀ m, s.environmentMoves m → ∃ t, step s = .next t ∧ s.wq <+: t.wq ∧ s.rq <+: t.rq)

/-- A read leaves `RQ` only at a poll of an idle dispatcher that finds `WQ` empty (R41, R62, R116). -/
def Obligations.ReadsArePoppedOnlyWhenNoWriteIsPending : Prop :=
  ∀ s t : State, step s = .next t → t.rq.length < s.rq.length →
    s.dispatcherMoves ∧ s.phase = .idle ∧ s.wq = [] ∧ ∃ q, s.rq = q :: t.rq

/-- Writes that neither latch nor send are all serviced before any pending read: as many dispatcher steps as there are
writes empty `WQ` and leave `RQ` and `RSP` as they were (R41, R62, R134). -/
def Obligations.PendingWritesAreServicedBeforeReads : Prop :=
  ∀ s : State, s.dispatcherMovesFor s.wq.length → s.phase = .idle →
    (∀ w ∈ s.wq, wreqAddress w ≠ 0x00 ∧ wreqAddress w ≠ 0x08 ∧
      ¬(wreqAddress w = 0x80 ∧ wreqData w = 0xFF)) →
    ∃ t, Host.Core.run Sys2Proof.core s.wq.length s = .next t ∧
      t.wq = [] ∧ t.rq = s.rq ∧ t.rsp = s.rsp ∧ t.ledq = s.ledq ∧ t.phase = .idle

/-- Every pending write, latches and sends among them, is serviced to completion before any pending read: with `c` a bound
on the logical length, room in `LEDQ` for `c` words for each pending latch and both transceivers ready, so many dispatcher
steps empty `WQ` and leave `RQ` and `RSP` as they were (R41, R62, R63, R134). -/
def Obligations.AllPendingWritesAreServicedBeforeReads : Prop :=
  ∀ (s : State) (c : Nat), s.dispatcherMovesFor (s.wq.length * (1 + c)) → s.phase = .idle →
    1 ≤ s.pixelCount.val → s.pixelCount.val ≤ c →
    (∀ w ∈ s.wq, wreqAddress w = 0x80 → (wreqData w).toNat ≤ 249 → (wreqData w).toNat + 1 ≤ c) →
    s.ledq.length + c * (s.wq.filter fun w => decodeWrite w = .wrLedctlLatch).length ≤ Config.ledqDepth →
    s.uart0.txReady = true → s.uart1.txReady = true →
    ∃ n t, n ≤ s.wq.length * (1 + c) ∧ Host.Core.run Sys2Proof.core n s = .next t ∧
      t.wq = [] ∧ t.rq = s.rq ∧ t.rsp = s.rsp ∧ t.phase = .idle

/-- Read starvation (R48, R135). While every poll finds `WQ` non-empty, through any number of steps, no read leaves `RQ`
and no response is pushed; and a producer that pushes a write before each of any number of polls keeps it so. -/
def Obligations.ReadsWaitWhileWritesKeepComing : Prop :=
  (∀ (n : Nat) (s t : State),
    (∀ k < n, ∀ u : State, Host.Core.run Sys2Proof.core k s = .next u → u.dispatcherMoves → u.phase = .idle →
      u.wq ≠ []) →
    Host.Core.run Sys2Proof.core n s = .next t →
    s.rq <+: t.rq ∧ ((∀ w, s.phase ≠ .respPush w) → t.rsp <:+ s.rsp)) ∧
  ∀ (n : Nat) (s : State) (ws : Nat → Word), s.overrun = false → s.phase = .idle → s.wq = [] →
    s.startup.masterReleased = true →
    (∀ k < n, s.turnAt (2 * k) = .environment (.pushWrite (ws k)) ∧ s.turnAt (2 * k + 1) = .dispatcher ∧
      wreqAddress (ws k) ≠ 0x00 ∧ wreqAddress (ws k) ≠ 0x08 ∧
      ¬(wreqAddress (ws k) = 0x80 ∧ wreqData (ws k) = 0xFF)) →
    ∃ t, Host.Core.run Sys2Proof.core (2 * n) s = .next t ∧ t.rq = s.rq ∧ t.rsp = s.rsp ∧ t.wq = [] ∧
      t.phase = .idle

/-- The dispatcher is scheduled again and again, from every state: beyond any number of turns it has another, and so a run
from any state comes to a step of the dispatcher unless a push overruns a queue before (R4; that an overrun ends the run is
log entry 3). -/
def Obligations.DispatcherIsScheduledAgainAndAgain : Prop :=
  (∀ (s : State) (n : Nat), ∃ k, n ≤ k ∧ s.turnAt k = .dispatcher) ∧
  ∀ s : State, s.overrun = false → ∃ k t, Host.Core.run Sys2Proof.core k s = .next t ∧
    (t.overrun = true ∨ t.dispatcherMoves)

/-- A write at the head of `WQ` before an idle dispatcher is serviced in the end, whatever the environment does but for an
overrun (R4, R62, R69). -/
def Obligations.PendingWriteIsServicedInTheEnd : Prop :=
  ∀ (s : State) (w : Word) (ws : List Word), s.overrun = false → s.phase = .idle → s.wq = w :: ws →
    ∃ k t, Host.Core.run Sys2Proof.core k s = .next t ∧
      (t.overrun = true ∨ ∃ more, t.dispatcherMoves ∧ t.phase = .idle ∧ t.wq = w :: (ws ++ more) ∧
        step t = exec (decodeRequest .write w) { t.turnTaken with wq := ws ++ more })

/-- Under weak fairness of every agent a waiting response is pushed in the end, a latch ends, and the master is released, in
each case unless a push overruns a queue before (R143, R75, R90, R128; the premise is the spec's decision D25, log entry
29). -/
def Obligations.FairAgentsEndEveryWaitForThem : Prop :=
  ∀ (f : Nat → Turn) (s : State), fair f → s.overrun = false → s.queueInv →
    (∀ w, s.phase = .respPush w → ∃ n t, runUnder f n s = .next t ∧
      (t.overrun = true ∨ t.phase = .idle ∧ ∃ before, t.rsp = before ++ [w])) ∧
    (∀ i, s.phase = .latchEmit i → ∃ n t, runUnder f n s = .next t ∧ (t.overrun = true ∨ t.phase = .idle)) ∧
    ∃ n t, runUnder f n s = .next t ∧ (t.overrun = true ∨ t.startup.masterReleased = true)

/-- Every queue is first-in first-out: a step removes at most the oldest entry or adds at most one newest entry
(R12 to R15, R40, R47). -/
def Obligations.QueuesAreFirstInFirstOut : Prop :=
  ∀ s t : State, step s = .next t →
    (t.wq = s.wq ∨ (∃ w, s.wq = w :: t.wq) ∨ ∃ w, t.wq = s.wq ++ [w]) ∧
    (t.rq = s.rq ∨ (∃ q, s.rq = q :: t.rq) ∨ ∃ q, t.rq = s.rq ++ [q]) ∧
    (t.rsp = s.rsp ∨ (∃ w, s.rsp = w :: t.rsp) ∨ ∃ w, t.rsp = s.rsp ++ [w]) ∧
    (t.ledq = s.ledq ∨ (∃ w, s.ledq = w :: t.ledq) ∨ ∃ w, t.ledq = s.ledq ++ [w])

/-- No read is dropped or answered twice: in a dispatcher step, pending reads, the response waiting and responses pushed
keep their total, and the response waiting is the one pushed (R42, R21 item 5). -/
def Obligations.OneResponsePerRead : Prop :=
  ∀ s t : State, s.dispatcherMoves → step s = .next t →
    t.rq.length + t.responsesWaiting + t.rsp.length = s.rq.length + s.responsesWaiting + s.rsp.length ∧
    (t.rsp = s.rsp ∨ ∃ w, s.phase = .respPush w ∧ t.rsp = s.rsp ++ [w] ∧ t.phase = .idle) ∧
    (t.rq.length < s.rq.length → ∃ w, t.phase = .respPush w)

/-- With no write pending and room in `RSP`, two dispatcher steps for each pending read answer all of them, one response
for each (R42, R65, R66). -/
def Obligations.PendingReadsAreAllAnswered : Prop :=
  ∀ s : State, s.dispatcherMovesFor (2 * s.rq.length) → s.phase = .idle → s.wq = [] →
    s.rsp.length + s.rq.length ≤ Config.rspDepth →
    ∃ t answers, Host.Core.run Sys2Proof.core (2 * s.rq.length) s = .next t ∧
      t.rq = [] ∧ t.phase = .idle ∧ answers.length = s.rq.length ∧ t.rsp = s.rsp ++ answers ∧
      t.wq = [] ∧ t.ledq = s.ledq ∧ t.buf = s.buf ∧ t.pixelCount = s.pixelCount ∧
      t.selectedIndex = s.selectedIndex

/-- The response push: with room it appends the word and the dispatcher is idle again; with none the dispatcher holds
and nothing changes (R66; the hold is the spec's decision D9, log entry 2). -/
def Obligations.ResponsePushHoldsUntilThereIsRoom : Prop :=
  ∀ (s : State) (w : Word), s.dispatcherMoves → s.phase = .respPush w →
    (s.rsp.length < Config.rspDepth →
      step s = .next { s.turnTaken with rsp := s.rsp ++ [w], phase := .idle }) ∧
    (Config.rspDepth ≤ s.rsp.length → step s = .next s.turnTaken)

/-! ## Unmapped addresses -/

/-- `WR_UNMAPPED`: no state other than `WQ` changes (R71). -/
def Obligations.WriteToUnmappedAddressIsDropped : Prop :=
  (∀ (a d : Byte) (s : State), exec (.wrUnmapped a d) s = .next s) ∧
  ∀ (s : State) (w : Word) (ws : List Word), s.dispatcherMoves → s.phase = .idle → s.wq = w :: ws →
    wreqAddress w ∉ mappedAddresses → step s = .next { s.turnTaken with wq := ws }

/-- `RD_UNMAPPED`: the response is 0 in every state and for every unmapped address, and nothing else changes (R72). -/
def Obligations.ReadOfUnmappedAddressAnswersZero : Prop :=
  (∀ (a : Byte) (s : State), exec (.rdUnmapped a) s = .next { s with phase := .respPush 0x00000000 }) ∧
  ∀ (s : State) (q : Word) (qs : List Word), s.dispatcherMoves → s.phase = .idle → s.wq = [] →
    s.rq = q :: qs → rreqAddress q ∉ mappedAddresses →
    step s = .next { s.turnTaken with rq := qs, phase := .respPush 0x00000000 }

/-! ## The LED controller -/

/-- `WR_LEDCTL.SELECT` (R76). -/
def Obligations.SelectSetsIndexAndGrowsLength : Prop :=
  (∀ w, wreqAddress w = 0x80 → (wreqData w).toNat ≤ 249 → decodeWrite w = .wrLedctlSelect (wreqData w)) ∧
  ∀ (v : Byte) (s : State), v.toNat ≤ 249 → ∃ t, exec (.wrLedctlSelect v) s = .next t ∧
    t.selectedIndex.val = v.toNat ∧
    (s.pixelCount.val ≤ v.toNat → t.pixelCount.val = v.toNat + 1) ∧
    (v.toNat < s.pixelCount.val → t.pixelCount = s.pixelCount) ∧
    t = { s with selectedIndex := t.selectedIndex, pixelCount := t.pixelCount }

/-- `WR_LEDCTL.IGNORE` (R77). -/
def Obligations.OutOfRangeSelectIsIgnored : Prop :=
  (∀ w, wreqAddress w = 0x80 → 250 ≤ (wreqData w).toNat → (wreqData w).toNat ≤ 253 →
    decodeWrite w = .wrLedctlIgnore (wreqData w)) ∧
  (∀ (v : Byte) (s : State), exec (.wrLedctlIgnore v) s = .next s) ∧
  ∀ (s : State) (w : Word) (ws : List Word), s.dispatcherMoves → s.phase = .idle → s.wq = w :: ws →
    wreqAddress w = 0x80 → 250 ≤ (wreqData w).toNat → (wreqData w).toNat ≤ 253 →
    step s = .next { s.turnTaken with wq := ws }

/-- `WR_LEDCTL.RESET`; it is the only operation that lowers `pixel_count` (R78). -/
def Obligations.LedResetCommandResetsLengthAndIndexOnly : Prop :=
  (∀ w, wreqAddress w = 0x80 → wreqData w = 254 → decodeWrite w = .wrLedctlReset) ∧
  (∀ s : State, ∃ t, exec .wrLedctlReset s = .next t ∧
    t.pixelCount.val = 1 ∧ t.selectedIndex.val = 0 ∧
    t = { s with pixelCount := t.pixelCount, selectedIndex := t.selectedIndex }) ∧
  ∀ (i : Instr) (s t : State), exec i s = .next t → t.pixelCount.val < s.pixelCount.val → i = .wrLedctlReset

/-- `WR_LEDCTL.LATCH` with room in `LEDQ`: the serviced request is followed by one word for each pixel of the logical
length, in index order, and nothing else changes (R79). The premise `1 ≤ pixelCount` is part of the invariant of
`StepKeepsTheInvariant`. -/
def Obligations.LatchEmitsTheLogicalLengthInOrder : Prop :=
  (∀ w, wreqAddress w = 0x80 → wreqData w = 255 → decodeWrite w = .wrLedctlLatch) ∧
  (∀ s : State, exec .wrLedctlLatch s = .next { s with phase := .latchEmit 0 }) ∧
  ∀ (s : State) (w : Word) (ws : List Word), s.dispatcherMovesFor (1 + s.pixelCount.val) → s.phase = .idle →
    s.wq = w :: ws → wreqAddress w = 0x80 → wreqData w = 255 → 1 ≤ s.pixelCount.val →
    s.ledq.length + s.pixelCount.val ≤ Config.ledqDepth →
    Host.Core.run Sys2Proof.core (1 + s.pixelCount.val) s =
      .next { s.turnsTaken (1 + s.pixelCount.val) with
        wq := ws
        ledq := s.ledq ++ s.ledWords s.pixelCount.val }

/-- The emission step: with room it appends the word of pixel `i` and goes to the next pixel or to `Idle`; with none the
dispatcher holds (R80; the hold is the spec's decision D8, log entry 2). -/
def Obligations.LatchEmissionStep : Prop :=
  ∀ (s : State) (i : Fin 250), s.dispatcherMoves → s.phase = .latchEmit i →
    (s.ledq.length < Config.ledqDepth → ∃ t, step s = .next t ∧
      t.ledq = s.ledq ++ [(s.buf[i].b.setWidth 32 <<< 24) ||| (s.buf[i].r.setWidth 32 <<< 16) |||
        (s.buf[i].g.setWidth 32 <<< 8)] ∧
      (i.val + 1 < s.pixelCount.val → ∃ j : Fin 250, j.val = i.val + 1 ∧ t.phase = .latchEmit j) ∧
      (s.pixelCount.val ≤ i.val + 1 → t.phase = .idle) ∧
      t = { s.turnTaken with ledq := t.ledq, phase := t.phase }) ∧
    (Config.ledqDepth ≤ s.ledq.length → step s = .next s.turnTaken)

/-- Whatever the environment does between the emissions, the words of one latch enter `LEDQ` in index order: what has
been popped from it since some moment, followed by what it holds, is what it held then followed by the words of the
pixels emitted. A step adds to `popped` exactly the word it removes from `LEDQ`, if it removes one (R47, R80, R90). -/
def Obligations.LatchKeepsIndexOrderUnderBackPressure : Prop :=
  ∀ (s t : State) (i : Fin 250) (before popped : List Word), i.val < s.pixelCount.val →
    s.phase = .latchEmit i → popped ++ s.ledq = before ++ s.ledWords i.val → step s = .next t →
    t.buf = s.buf ∧ t.pixelCount = s.pixelCount ∧ t.selectedIndex = s.selectedIndex ∧
    ∃ popped' : List Word,
      ((popped' = popped ∧ s.ledq <+: t.ledq) ∨ ∃ w, s.ledq = w :: t.ledq ∧ popped' = popped ++ [w]) ∧
      ((t.phase = .idle ∧ popped' ++ t.ledq = before ++ t.ledWords t.pixelCount.val) ∨
        ∃ j : Fin 250, j.val < t.pixelCount.val ∧ t.phase = .latchEmit j ∧
          popped' ++ t.ledq = before ++ t.ledWords j.val)

/-- `RD_LEDCTL`: `selected_index`, which is at most 249; and no read's response depends on `pixel_count` (R82). -/
def Obligations.ReadOfLedControlAnswersSelectedIndex : Prop :=
  (∀ q, rreqAddress q = 0x80 → decodeRead q = .rdLedctl) ∧
  (∀ s : State, ∃ t w, exec .rdLedctl s = .next t ∧ t.phase = .respPush w ∧
    w.toNat = s.selectedIndex.val ∧ w.toNat ≤ 249 ∧ t = { s with phase := t.phase }) ∧
  ∀ (i : Instr) (s : State) (c : Fin 251), i.channel = .read → ∃ t u,
    exec i s = .next t ∧ exec i { s with pixelCount := c } = .next u ∧ u.phase = t.phase

/-- `WR_LEDB`, `WR_LEDR`, `WR_LEDG`: one channel byte of the selected pixel, nothing else (R83, R84, R85). -/
def Obligations.ColourWritesStoreOneChannel : Prop :=
  (∀ w, (wreqAddress w = 0x82 → decodeWrite w = .wrLedB (wreqData w)) ∧
    (wreqAddress w = 0x84 → decodeWrite w = .wrLedR (wreqData w)) ∧
    (wreqAddress w = 0x86 → decodeWrite w = .wrLedG (wreqData w))) ∧
  ∀ (d : Byte) (s : State),
    (∃ t, exec (.wrLedB d) s = .next t ∧
      t.buf[s.selectedIndex] = ⟨s.buf[s.selectedIndex].r, s.buf[s.selectedIndex].g, d⟩ ∧
      (∀ j : Fin 250, j ≠ s.selectedIndex → t.buf[j] = s.buf[j]) ∧ t = { s with buf := t.buf }) ∧
    (∃ t, exec (.wrLedR d) s = .next t ∧
      t.buf[s.selectedIndex] = ⟨d, s.buf[s.selectedIndex].g, s.buf[s.selectedIndex].b⟩ ∧
      (∀ j : Fin 250, j ≠ s.selectedIndex → t.buf[j] = s.buf[j]) ∧ t = { s with buf := t.buf }) ∧
    (∃ t, exec (.wrLedG d) s = .next t ∧
      t.buf[s.selectedIndex] = ⟨s.buf[s.selectedIndex].r, d, s.buf[s.selectedIndex].b⟩ ∧
      (∀ j : Fin 250, j ≠ s.selectedIndex → t.buf[j] = s.buf[j]) ∧ t = { s with buf := t.buf })

/-- `RD_LEDB`, `RD_LEDR`, `RD_LEDG` (R86, R87, R88). -/
def Obligations.ColourReadsAnswerTheSelectedPixel : Prop :=
  (∀ q, (rreqAddress q = 0x82 → decodeRead q = .rdLedB) ∧ (rreqAddress q = 0x84 → decodeRead q = .rdLedR) ∧
    (rreqAddress q = 0x86 → decodeRead q = .rdLedG)) ∧
  ∀ s : State,
    exec .rdLedB s = .next { s with phase := .respPush (s.buf[s.selectedIndex].b.setWidth 32) } ∧
    exec .rdLedR s = .next { s with phase := .respPush (s.buf[s.selectedIndex].r.setWidth 32) } ∧
    exec .rdLedG s = .next { s with phase := .respPush (s.buf[s.selectedIndex].g.setWidth 32) }

/-- What is written to a colour register, or selected, is what the next read of that register answers, whatever the
state before (section 3 and property of `41_led.md` R76). -/
def Obligations.LedRegistersReadBackWhatWasWritten : Prop :=
  ∀ (d v : Byte) (s : State),
    (∃ t, exec (.wrLedB d) s = .next t ∧ exec .rdLedB t = .next { t with phase := .respPush (d.setWidth 32) }) ∧
    (∃ t, exec (.wrLedR d) s = .next t ∧ exec .rdLedR t = .next { t with phase := .respPush (d.setWidth 32) }) ∧
    (∃ t, exec (.wrLedG d) s = .next t ∧ exec .rdLedG t = .next { t with phase := .respPush (d.setWidth 32) }) ∧
    (v.toNat ≤ 249 → ∃ t, exec (.wrLedctlSelect v) s = .next t ∧ v.toNat + 1 ≤ t.pixelCount.val ∧
      exec .rdLedctl t = .next { t with phase := .respPush (v.setWidth 32) })

/-- The LED word's fields (R53). -/
def Obligations.LedWordPacking : Prop :=
  ∀ p : Pixel, (ledWord p).extractLsb' 24 8 = p.b ∧ (ledWord p).extractLsb' 16 8 = p.r ∧
    (ledWord p).extractLsb' 8 8 = p.g ∧ (ledWord p).extractLsb' 0 8 = 0 ∧
    (ledWord p).toNat = p.g.toNat * 2 ^ 8 + p.r.toNat * 2 ^ 16 + p.b.toNat * 2 ^ 24

/-- `pixel_count` is written by two operations only, a select that raises it to one above its index and the LED reset
command that sets it to 1 (R7). -/
def Obligations.PixelCountChangesOnlyBySelectOrReset : Prop :=
  ∀ s t : State, step s = .next t → t.pixelCount ≠ s.pixelCount →
    s.dispatcherMoves ∧ s.phase = .idle ∧ ∃ w ws, s.wq = w :: ws ∧ wreqAddress w = 0x80 ∧
      (((wreqData w).toNat ≤ 249 ∧ s.pixelCount.val < t.pixelCount.val ∧
          t.pixelCount.val = (wreqData w).toNat + 1) ∨
        ((wreqData w).toNat = 254 ∧ t.pixelCount.val = 1))

/-- `pixel_count` stays hidden from the bus: two runs of a read that differ in it alone still differ in it alone (R7,
R82). -/
def Obligations.PixelCountCannotBeRead : Prop :=
  ∀ (i : Instr) (s : State) (c : Fin 251), i.channel = .read →
    ∃ t, exec i s = .next t ∧ exec i { s with pixelCount := c } = .next { t with pixelCount := c }

/-- An entry of the pixel buffer is written only by a colour-channel write at `selected_index`, one byte at a time; no
operation clears an entry (R9). -/
def Obligations.PixelsChangeOnlyByColourWrites : Prop :=
  ∀ (s t : State) (j : Fin 250), step s = .next t → t.buf[j] ≠ s.buf[j] →
    s.dispatcherMoves ∧ s.phase = .idle ∧ j = s.selectedIndex ∧ ∃ w ws, s.wq = w :: ws ∧
      ((wreqAddress w = 0x82 ∧ t.buf[j] = ⟨s.buf[j].r, s.buf[j].g, wreqData w⟩) ∨
        (wreqAddress w = 0x84 ∧ t.buf[j] = ⟨wreqData w, s.buf[j].g, s.buf[j].b⟩) ∨
        (wreqAddress w = 0x86 ∧ t.buf[j] = ⟨s.buf[j].r, wreqData w, s.buf[j].b⟩))

/-! ## The flash window controller -/

/-- `WR_FADDR0`, `WR_FADDR1`, `WR_FADDR2`: the masked merge of each, and nothing else (R91, R92, R93). -/
def Obligations.CursorFieldWrites : Prop :=
  (∀ w, (wreqAddress w = 0x92 → decodeWrite w = .wrFaddr0 (wreqData w)) ∧
    (wreqAddress w = 0x94 → decodeWrite w = .wrFaddr1 (wreqData w)) ∧
    (wreqAddress w = 0x96 → decodeWrite w = .wrFaddr2 (wreqData w))) ∧
  ∀ (d : Byte) (s : State),
    (∃ t, exec (.wrFaddr0 d) s = .next t ∧
      t.pointer = (s.pointer &&& 0xFFFFFF00) ||| d.setWidth 32 ∧
      t.pointer.extractLsb' 0 8 = d ∧ t.pointer.extractLsb' 8 24 = s.pointer.extractLsb' 8 24 ∧
      t = { s with pointer := t.pointer }) ∧
    (∃ t, exec (.wrFaddr1 d) s = .next t ∧
      t.pointer = (s.pointer &&& 0xFFFF00FF) ||| (d.setWidth 32 <<< 8) ∧
      t.pointer.extractLsb' 8 8 = d ∧ t.pointer.extractLsb' 16 16 = s.pointer.extractLsb' 16 16 ∧
      t.pointer.extractLsb' 0 8 = s.pointer.extractLsb' 0 8 ∧ t = { s with pointer := t.pointer }) ∧
    (∃ t, exec (.wrFaddr2 d) s = .next t ∧
      t.pointer = (s.pointer &&& 0xFFF0FFFF) ||| ((d.extractLsb' 0 4).setWidth 32 <<< 16) ∧
      t.pointer.extractLsb' 16 4 = d.extractLsb' 0 4 ∧
      t.pointer.extractLsb' 20 12 = s.pointer.extractLsb' 20 12 ∧
      t.pointer.extractLsb' 0 16 = s.pointer.extractLsb' 0 16 ∧ t = { s with pointer := t.pointer })

/-- `RD_FADDR0`, `RD_FADDR1`, `RD_FADDR2` (R94, R95, R96). -/
def Obligations.CursorFieldReads : Prop :=
  (∀ q, (rreqAddress q = 0x92 → decodeRead q = .rdFaddr0) ∧ (rreqAddress q = 0x94 → decodeRead q = .rdFaddr1) ∧
    (rreqAddress q = 0x96 → decodeRead q = .rdFaddr2)) ∧
  ∀ s : State,
    (∃ t w, exec .rdFaddr0 s = .next t ∧ t.phase = .respPush w ∧ w.toNat = s.pointer.toNat % 256 ∧
      t = { s with phase := t.phase }) ∧
    (∃ t w, exec .rdFaddr1 s = .next t ∧ t.phase = .respPush w ∧ w.toNat = s.pointer.toNat / 2 ^ 8 % 256 ∧
      t = { s with phase := t.phase }) ∧
    (∃ t w, exec .rdFaddr2 s = .next t ∧ t.phase = .respPush w ∧ w.toNat = s.pointer.toNat / 2 ^ 16 % 16 ∧
      t = { s with phase := t.phase })

/-- Reading an address register back answers exactly the bits written, for `FADDR2` the low nibble (R91 to R96). -/
def Obligations.CursorFieldsReadBackWhatWasWritten : Prop :=
  ∀ (d : Byte) (s : State),
    (∃ t, exec (.wrFaddr0 d) s = .next t ∧
      exec .rdFaddr0 t = .next { t with phase := .respPush (d.setWidth 32) }) ∧
    (∃ t, exec (.wrFaddr1 d) s = .next t ∧
      exec .rdFaddr1 t = .next { t with phase := .respPush (d.setWidth 32) }) ∧
    (∃ t, exec (.wrFaddr2 d) s = .next t ∧
      exec .rdFaddr2 t = .next { t with phase := .respPush ((d &&& 0x0F).setWidth 32) })

/-- `RD_FDATA`: inside the window the response is the flash byte at the cursor; outside it some byte, which nothing
constrains (log entry 8); in both cases the cursor advances by one modulo 2^32 (R97, R99; the address sum is the spec's
decision D11, the free byte its decision D15). -/
def Obligations.FlashReadAnswersAndAdvances : Prop :=
  ∀ s : State,
    (s.pointer.toNat < 2 ^ 20 → ∃ t, exec .rdFdata s = .next t ∧
      t.phase = .respPush ((Config.flash (Config.flashBase + s.pointer)).setWidth 32) ∧
      t.pointer.toNat = s.pointer.toNat + 1 ∧
      t = { s with phase := t.phase, pointer := t.pointer }) ∧
    (2 ^ 20 ≤ s.pointer.toNat → ∃ t, ∃ v : Byte, exec .rdFdata s = .next t ∧
      t.phase = .respPush (v.setWidth 32) ∧
      t.pointer.toNat = (s.pointer.toNat + 1) % 2 ^ 32 ∧
      t = { s with phase := t.phase, pointer := t.pointer, draws := t.draws })

/-- `WR_FDATA`: popped and discarded; the cursor does not move (R98). -/
def Obligations.FlashDataWriteIsDropped : Prop :=
  (∀ (d : Byte) (s : State), exec (.wrFdata d) s = .next s) ∧
  ∀ (s : State) (w : Word) (ws : List Word), s.dispatcherMoves → s.phase = .idle → s.wq = w :: ws →
    wreqAddress w = 0x90 → step s = .next { s.turnTaken with wq := ws }

/-- N consecutive flash data reads inside the window advance the cursor by exactly N, and the responses are the flash
bytes at the successive cursor values, in order (R97, R42; property S6; the address sum is the spec's decision D11, log
entry 5). -/
def Obligations.ConsecutiveFlashReadsReturnSuccessiveBytes : Prop :=
  ∀ (s : State) (reads rest : List Word), s.dispatcherMovesFor (2 * reads.length) → s.phase = .idle →
    s.wq = [] → s.rq = reads ++ rest → (∀ q ∈ reads, rreqAddress q = 0x90) →
    s.rsp.length + reads.length ≤ Config.rspDepth → s.pointer.toNat + reads.length ≤ 2 ^ 20 →
    Host.Core.run Sys2Proof.core (2 * reads.length) s =
      .next { s.turnsTaken (2 * reads.length) with
        rq := rest
        pointer := s.pointer + BitVec.ofNat 32 reads.length
        rsp := s.rsp ++ (List.range reads.length).map fun k =>
          (Config.flash (Config.flashBase + (s.pointer + BitVec.ofNat 32 k))).setWidth 32 }

/-- The cursor is advanced by one, by a serviced `RD_FDATA` only, or has one of its three bus-visible fields replaced, by
a serviced write to that field's register only (R10, R21 item 4). -/
def Obligations.CursorMovesOnlyAsTheMapSays : Prop :=
  ∀ s t : State, step s = .next t → t.pointer ≠ s.pointer →
    s.dispatcherMoves ∧ s.phase = .idle ∧
    ((∃ w ws, s.wq = w :: ws ∧
        ((wreqAddress w = 0x92 ∧ t.pointer &&& 0xFFFFFF00 = s.pointer &&& 0xFFFFFF00) ∨
          (wreqAddress w = 0x94 ∧ t.pointer &&& 0xFFFF00FF = s.pointer &&& 0xFFFF00FF) ∨
          (wreqAddress w = 0x96 ∧ t.pointer &&& 0xFFF0FFFF = s.pointer &&& 0xFFF0FFFF))) ∨
      (s.wq = [] ∧ ∃ q qs, s.rq = q :: qs ∧ rreqAddress q = 0x90 ∧ t.pointer = s.pointer + 1))

/-- Bits 31:20 of the cursor change only when a serviced `RD_FDATA` increments a cursor whose low 20 bits are all ones
(R100). -/
def Obligations.CursorUpperBitsChangeOnlyByCarry : Prop :=
  ∀ s t : State, step s = .next t → t.pointer.extractLsb' 20 12 ≠ s.pointer.extractLsb' 20 12 →
    s.pointer.extractLsb' 0 20 = 0xFFFFF ∧ t.pointer = s.pointer + 1 ∧ s.dispatcherMoves ∧ s.phase = .idle ∧ s.wq = [] ∧
    ∃ q qs, s.rq = q :: qs ∧ rreqAddress q = 0x90

/-! ## The serial proxy -/

/-- `WR_U0DATA`, `WR_U1DATA`: the byte waits for its transceiver, then is appended to what that transceiver has to
transmit; while it is not ready the dispatcher holds (R101, R102; the hold is the spec's decisions D8 and D20, log entry
2). -/
def Obligations.SerialWriteForwardsTheByte : Prop :=
  (∀ (d : Byte) (s : State), exec (.wrU0Data d) s = .next { s with phase := .uartTx .u0 d } ∧
    exec (.wrU1Data d) s = .next { s with phase := .uartTx .u1 d }) ∧
  ∀ (s : State) (d : Byte), s.dispatcherMoves →
    (s.phase = .uartTx .u0 d →
      (s.uart0.txReady = true → ∃ t, step s = .next t ∧ t.uart0.tx = s.uart0.tx ++ [d] ∧ t.phase = .idle ∧
        t = { s.turnTaken with phase := .idle, uart0 := { s.uart0 with tx := t.uart0.tx } }) ∧
      (s.uart0.txReady = false → step s = .next s.turnTaken)) ∧
    (s.phase = .uartTx .u1 d →
      (s.uart1.txReady = true → ∃ t, step s = .next t ∧ t.uart1.tx = s.uart1.tx ++ [d] ∧ t.phase = .idle ∧
        t = { s.turnTaken with phase := .idle, uart1 := { s.uart1 with tx := t.uart1.tx } }) ∧
      (s.uart1.txReady = false → step s = .next s.turnTaken))

/-- `RD_U0DATA`, `RD_U1DATA`: the oldest received byte, consumed; with none pending some byte, which nothing constrains
(log entry 9), and no change to the transceiver (R103, R104; the empty read is the spec's decision D18). -/
def Obligations.SerialReadConsumesTheOldestByte : Prop :=
  ∀ s : State,
    (∀ b rest, s.uart0.rx = b :: rest → ∃ t, exec .rdU0Data s = .next t ∧
      t.phase = .respPush (b.setWidth 32) ∧ t.uart0.rx = rest ∧
      t = { s with phase := t.phase, uart0 := { s.uart0 with rx := t.uart0.rx } }) ∧
    (s.uart0.rx = [] → ∃ t, ∃ v : Byte, exec .rdU0Data s = .next t ∧ t.phase = .respPush (v.setWidth 32) ∧
      t = { s with phase := t.phase, draws := t.draws }) ∧
    (∀ b rest, s.uart1.rx = b :: rest → ∃ t, exec .rdU1Data s = .next t ∧
      t.phase = .respPush (b.setWidth 32) ∧ t.uart1.rx = rest ∧
      t = { s with phase := t.phase, uart1 := { s.uart1 with rx := t.uart1.rx } }) ∧
    (s.uart1.rx = [] → ∃ t, ∃ v : Byte, exec .rdU1Data s = .next t ∧ t.phase = .respPush (v.setWidth 32) ∧
      t = { s with phase := t.phase, draws := t.draws })

/-- `RD_U0STAT`, `RD_U1STAT`: the low 8 bits of the raw status word, no bit changed or moved, whatever its width
(R105, R106; which 8 bits is the spec's decision D17, log entry 19). -/
def Obligations.SerialStatusReadAnswersTheLowByte : Prop :=
  ∀ s : State,
    (∃ t w, exec .rdU0Stat s = .next t ∧ t.phase = .respPush w ∧ w.toNat = s.uart0.status.toNat % 256 ∧
      t = { s with phase := t.phase }) ∧
    (∃ t w, exec .rdU1Stat s = .next t ∧ t.phase = .respPush w ∧ w.toNat = s.uart1.status.toNat % 256 ∧
      t = { s with phase := t.phase })

/-- `WR_U0STAT`, `WR_U1STAT`: popped and discarded; no state changes (R107, R108). -/
def Obligations.SerialStatusWriteIsDropped : Prop :=
  (∀ (d : Byte) (s : State), exec (.wrU0Stat d) s = .next s ∧ exec (.wrU1Stat d) s = .next s) ∧
  ∀ (s : State) (w : Word) (ws : List Word), s.dispatcherMoves → s.phase = .idle → s.wq = w :: ws →
    wreqAddress w = 0x02 ∨ wreqAddress w = 0x0A → step s = .next { s.turnTaken with wq := ws }

/-- The two transceivers are independent: what an operation on one does, and the send step that follows a data write, is
the same whatever the other holds, and the other keeps what it holds (R16, R109). -/
def Obligations.TransceiversAreIndependent : Prop :=
  ∀ (s : State) (u : Uart) (d : Byte),
    (∀ i ∈ [Instr.wrU0Data d, .wrU0Stat d, .rdU0Data, .rdU0Stat], ∃ t,
      exec i s = .next t ∧ t.uart1 = s.uart1 ∧ exec i { s with uart1 := u } = .next { t with uart1 := u }) ∧
    (∀ i ∈ [Instr.wrU1Data d, .wrU1Stat d, .rdU1Data, .rdU1Stat], ∃ t,
      exec i s = .next t ∧ t.uart0 = s.uart0 ∧ exec i { s with uart0 := u } = .next { t with uart0 := u }) ∧
    (s.dispatcherMoves → s.phase = .uartTx .u0 d → ∃ t,
      step s = .next t ∧ t.uart1 = s.uart1 ∧ step { s with uart1 := u } = .next { t with uart1 := u }) ∧
    (s.dispatcherMoves → s.phase = .uartTx .u1 d → ∃ t,
      step s = .next t ∧ t.uart0 = s.uart0 ∧ step { s with uart0 := u } = .next { t with uart0 := u })

/-! ## Rules of the whole machine -/

/-- Reads of `FDATA`, `U0DATA` and `U1DATA` are the only ones that change state: every other read changes `phase`, to
its response, and nothing else (R37; for the status reads the spec's decision D19). -/
def Obligations.OtherReadsChangeNothing : Prop :=
  ∀ (i : Instr) (s : State), i.channel = .read → i ≠ .rdFdata → i ≠ .rdU0Data → i ≠ .rdU1Data →
    ∃ w, exec i s = .next { s with phase := .respPush w } ∧ isRespWord w

/-- A write that neither latches nor sends is idempotent: writing the same value again leaves the same state (R37). -/
def Obligations.RepeatedWriteChangesNothingMore : Prop :=
  ∀ (i : Instr) (s : State), i.channel = .write → i ≠ .wrLedctlLatch →
    (∀ d, i ≠ .wrU0Data d ∧ i ≠ .wrU1Data d) →
    ∃ t, exec i s = .next t ∧ exec i t = .next t

/-- `pixel_count`, `selected_index`, `buf`, `pointer` and `phase` change only in dispatcher steps; the environment
changes the queues at their outer ends only (R20). -/
def Obligations.OnlyTheDispatcherChangesTheControllersState : Prop :=
  ∀ (s t : State) (m : Move), s.environmentMoves m → step s = .next t →
    t.pixelCount = s.pixelCount ∧ t.selectedIndex = s.selectedIndex ∧ t.buf = s.buf ∧
    t.pointer = s.pointer ∧ t.phase = s.phase ∧ t.draws = s.draws ∧
    s.wq <+: t.wq ∧ s.rq <+: t.rq ∧ t.rsp <:+ s.rsp ∧ t.ledq <:+ s.ledq

/-- A push after the master's release into a queue with room appends the word; into a full queue it loses the word and
sets `overrun`; nothing else changes (R74, R113; the spec's decision D7, log entry 3). -/
def Obligations.ProducerPushesOrOverruns : Prop :=
  ∀ (s : State) (w : Word), s.startup.masterReleased = true →
    (s.environmentMoves (.pushWrite w) →
      (s.wq.length < Config.wqDepth → step s = .next { s.turnTaken with wq := s.wq ++ [w] }) ∧
      (Config.wqDepth ≤ s.wq.length → step s = .next { s.turnTaken with overrun := true })) ∧
    (s.environmentMoves (.pushRead w) →
      (s.rq.length < Config.rqDepth → step s = .next { s.turnTaken with rq := s.rq ++ [w] }) ∧
      (Config.rqDepth ≤ s.rq.length → step s = .next { s.turnTaken with overrun := true }))

/-- The response consumer and the LED driver take the oldest entry when there is one; a transceiver receives, transmits
and changes its own state only; the sequencer arms the bus logic, starts the clock, and releases the master once both are
done (R75, R90, R110, R128; the sequencer's flags are the model's reading of R128, log entry 15). -/
def Obligations.CollaboratorsTakeTheirSteps : Prop :=
  ∀ s : State,
    (s.environmentMoves .popResponse →
      (∀ w rest, s.rsp = w :: rest → step s = .next { s.turnTaken with rsp := rest }) ∧
      (s.rsp = [] → step s = .next s.turnTaken)) ∧
    (s.environmentMoves .ledDriverPop →
      (∀ w rest, s.ledq = w :: rest → step s = .next { s.turnTaken with ledq := rest }) ∧
      (s.ledq = [] → step s = .next s.turnTaken)) ∧
    (∀ n c, s.environmentMoves (.uartReceive n c) →
      step s = .next (s.turnTaken.setUart n { s.uart n with rx := (s.uart n).rx ++ [c] })) ∧
    (∀ n, s.environmentMoves (.uartTransmit n) →
      (∀ b rest, (s.uart n).tx = b :: rest →
        step s = .next (s.turnTaken.setUart n { s.uart n with tx := rest })) ∧
      ((s.uart n).tx = [] → step s = .next s.turnTaken)) ∧
    (∀ n st r g, s.environmentMoves (.uartChange n st r g) →
      step s = .next (s.turnTaken.setUart n ⟨(s.uart n).rx, g, (s.uart n).tx, r, st⟩)) ∧
    (s.environmentMoves .armBus →
      step s = .next { s.turnTaken with startup := { s.startup with busArmed := true } }) ∧
    (s.environmentMoves .startClock →
      step s = .next { s.turnTaken with startup := { s.startup with clockStarted := true } }) ∧
    (s.environmentMoves .releaseMaster →
      (s.startup.busArmed = true → s.startup.clockStarted = true →
        step s = .next { s.turnTaken with startup := { s.startup with masterReleased := true } }) ∧
      (s.startup.busArmed = false ∨ s.startup.clockStarted = false → step s = .next s.turnTaken))

/-- A step ends in a fault exactly when an overrun is recorded, and never in a refusal: no request stops the machine
(R58, R111, R113; log entry 3). -/
def Obligations.StepFaultsExactlyOnOverrun : Prop :=
  ∀ s : State, (step s = .fault .overrun ↔ s.overrun = true) ∧ (∀ r, step s ≠ .refused r) ∧
    (s.overrun = false → ∃ t, step s = .next t)

/-- Only a push of a released producer into a full request queue sets `overrun` (R19, R113). -/
def Obligations.OverrunIsSetOnlyByAPushIntoAFullQueue : Prop :=
  ∀ s t : State, step s = .next t → t.overrun = true →
    s.startup.masterReleased = true ∧ t.wq = s.wq ∧ t.rq = s.rq ∧
    ((∃ w, s.environmentMoves (.pushWrite w) ∧ Config.wqDepth ≤ s.wq.length) ∨
      ∃ q, s.environmentMoves (.pushRead q) ∧ Config.rqDepth ≤ s.rq.length)

/-- Every step keeps the invariant: the logical length is at least 1 and above the selected index and the pixel being
emitted, no queue holds more than its capacity, responses and LED words have their formats, and the master is released
only after the bus logic and the clock (R11 to R15, R21 items 2 and 3, R52, R53, R128). -/
def Obligations.StepKeepsTheInvariant : Prop :=
  ∀ s t : State, s.inv → step s = .next t → t.inv

/-- The reset state meets the invariants (R28). -/
def Obligations.ResetMeetsTheInvariants : Prop :=
  State.reset.inv ∧ State.reset.launchInv

/-- Until the master is released every step keeps the controller and its queues at their launch values (R128, R129; the
sequencer's flags are the model's reading of R128, log entry 15). -/
def Obligations.LaunchStateHoldsUntilRelease : Prop :=
  ∀ s t : State, s.launchInv → step s = .next t → t.launchInv

/-- Controller reset gives the values of R28 from any state, and leaves the transceivers alone; the reset state is one
such state (R28, R29, R127; the spec's decisions D12, D13 and D22, log entry 11). -/
def Obligations.ControllerResetGivesTheResetValues : Prop :=
  ∀ s : State,
    (controllerReset s).atLaunch ∧ (controllerReset s).uart0 = s.uart0 ∧ (controllerReset s).uart1 = s.uart1 ∧
    State.reset.atLaunch ∧
    ∀ i : Fin 250, ((controllerReset s).buf[i].r, (controllerReset s).buf[i].g, (controllerReset s).buf[i].b) =
      Config.pixelReset i
end

