-- ==== Sys2Proof/Laws/Decode.lean ====
section
/-! SUPPORT. The decoder's small lemmas: fields of the words the encoder makes, and what the address decoder and the
decoder of `LEDCTL` writes answer. -/

namespace Sys2Proof

@[simp] theorem wreqAddress_wreqWord (a d : Byte) : wreqAddress (wreqWord a d) = a := by
  unfold wreqAddress wreqWord Config.wrAddrLo Config.wrDataLo
  ext i hi
  have h : 8 + i < 32 := by omega
  simp [hi, h]

@[simp] theorem wreqData_wreqWord (a d : Byte) : wreqData (wreqWord a d) = d := by
  unfold wreqData wreqWord Config.wrAddrLo Config.wrDataLo
  ext i hi
  simp [hi]
  omega

@[simp] theorem rreqAddress_rreqWord (a : Byte) : rreqAddress (rreqWord a) = a := by
  unfold rreqAddress rreqWord Config.rdAddrLo
  ext i hi
  have h : i < 32 := by omega
  simp [hi, h]

theorem decodeAddress_unmapped {a : Byte} (h : a ∉ mappedAddresses) : decodeAddress a = .unmapped := by
  simp only [mappedAddresses, List.mem_cons, List.not_mem_nil, not_or] at h
  simp only [decodeAddress, h, if_false]

theorem decodeLedctl_reset {v : Byte} (h : v.toNat = 254) : decodeLedctl v = .wrLedctlReset := by
  have : v = 254 := BitVec.eq_of_toNat_eq (by simpa using h)
  subst this; decide

theorem decodeLedctl_latch {v : Byte} (h : v.toNat = 255) : decodeLedctl v = .wrLedctlLatch := by
  have : v = 255 := BitVec.eq_of_toNat_eq (by simpa using h)
  subst this; decide

theorem decodeLedctl_ignore {v : Byte} (h1 : 250 ≤ v.toNat) (h2 : v.toNat ≤ 253) :
    decodeLedctl v = .wrLedctlIgnore v := by
  have ha : v ≠ Config.ledResetCode := by rintro rfl; simp [Config.ledResetCode] at h2
  have hb : v ≠ Config.ledLatchCode := by rintro rfl; simp [Config.ledLatchCode] at h2
  simp [decodeLedctl, ha, hb, h1]

theorem decodeLedctl_select {v : Byte} (h : v.toNat ≤ 249) : decodeLedctl v = .wrLedctlSelect v := by
  have ha : v ≠ Config.ledResetCode := by rintro rfl; simp [Config.ledResetCode] at h
  have hb : v ≠ Config.ledLatchCode := by rintro rfl; simp [Config.ledLatchCode] at h
  simp [decodeLedctl, ha, hb, Nat.not_le.mpr (Nat.lt_succ_of_le h)]

theorem decodeLedctl_channel (v : Byte) : (decodeLedctl v).channel = .write := by
  unfold decodeLedctl
  repeat' split
  all_goals rfl

theorem decodeWrite_channel (w : Word) : (decodeWrite w).channel = .write := by
  unfold decodeWrite decodeWriteAt
  split <;> first | rfl | exact decodeLedctl_channel _

theorem decodeRead_channel (q : Word) : (decodeRead q).channel = .read := by
  unfold decodeRead decodeReadAt
  split <;> rfl

end Sys2Proof
end

