-- ==== Sys2Proof/Laws/State.lean ====
section
/-! SUPPORT. The projections of every named update of `State`: one lemma per field per update, so that no later proof
unfolds a record update. -/

namespace Sys2Proof.Machine

/-! ## `State.turnsTaken` and `State.turnTaken` -/

section
variable (n : Nat) (s : State)

@[simp] theorem State.turnsTaken_pixelCount : (s.turnsTaken n).pixelCount = s.pixelCount := rfl
@[simp] theorem State.turnsTaken_selectedIndex : (s.turnsTaken n).selectedIndex = s.selectedIndex := rfl
@[simp] theorem State.turnsTaken_buf : (s.turnsTaken n).buf = s.buf := rfl
@[simp] theorem State.turnsTaken_pointer : (s.turnsTaken n).pointer = s.pointer := rfl
@[simp] theorem State.turnsTaken_phase : (s.turnsTaken n).phase = s.phase := rfl
@[simp] theorem State.turnsTaken_wq : (s.turnsTaken n).wq = s.wq := rfl
@[simp] theorem State.turnsTaken_rq : (s.turnsTaken n).rq = s.rq := rfl
@[simp] theorem State.turnsTaken_rsp : (s.turnsTaken n).rsp = s.rsp := rfl
@[simp] theorem State.turnsTaken_ledq : (s.turnsTaken n).ledq = s.ledq := rfl
@[simp] theorem State.turnsTaken_uart0 : (s.turnsTaken n).uart0 = s.uart0 := rfl
@[simp] theorem State.turnsTaken_uart1 : (s.turnsTaken n).uart1 = s.uart1 := rfl
@[simp] theorem State.turnsTaken_overrun : (s.turnsTaken n).overrun = s.overrun := rfl
@[simp] theorem State.turnsTaken_startup : (s.turnsTaken n).startup = s.startup := rfl
@[simp] theorem State.turnsTaken_draws : (s.turnsTaken n).draws = s.draws := rfl
@[simp] theorem State.turnsTaken_turns : (s.turnsTaken n).turns = s.turns.takenFor n := rfl
@[simp] theorem State.turnTaken_pixelCount : (s.turnTaken).pixelCount = s.pixelCount := rfl
@[simp] theorem State.turnTaken_selectedIndex : (s.turnTaken).selectedIndex = s.selectedIndex := rfl
@[simp] theorem State.turnTaken_buf : (s.turnTaken).buf = s.buf := rfl
@[simp] theorem State.turnTaken_pointer : (s.turnTaken).pointer = s.pointer := rfl
@[simp] theorem State.turnTaken_phase : (s.turnTaken).phase = s.phase := rfl
@[simp] theorem State.turnTaken_wq : (s.turnTaken).wq = s.wq := rfl
@[simp] theorem State.turnTaken_rq : (s.turnTaken).rq = s.rq := rfl
@[simp] theorem State.turnTaken_rsp : (s.turnTaken).rsp = s.rsp := rfl
@[simp] theorem State.turnTaken_ledq : (s.turnTaken).ledq = s.ledq := rfl
@[simp] theorem State.turnTaken_uart0 : (s.turnTaken).uart0 = s.uart0 := rfl
@[simp] theorem State.turnTaken_uart1 : (s.turnTaken).uart1 = s.uart1 := rfl
@[simp] theorem State.turnTaken_overrun : (s.turnTaken).overrun = s.overrun := rfl
@[simp] theorem State.turnTaken_startup : (s.turnTaken).startup = s.startup := rfl
@[simp] theorem State.turnTaken_draws : (s.turnTaken).draws = s.draws := rfl
@[simp] theorem State.turnTaken_turns : (s.turnTaken).turns = s.turns.taken := rfl

end

/-! ## `State.withTurn` -/

section
variable (t : Turn) (s : State)

@[simp] theorem State.withTurn_pixelCount : (s.withTurn t).pixelCount = s.pixelCount := rfl
@[simp] theorem State.withTurn_selectedIndex : (s.withTurn t).selectedIndex = s.selectedIndex := rfl
@[simp] theorem State.withTurn_buf : (s.withTurn t).buf = s.buf := rfl
@[simp] theorem State.withTurn_pointer : (s.withTurn t).pointer = s.pointer := rfl
@[simp] theorem State.withTurn_phase : (s.withTurn t).phase = s.phase := rfl
@[simp] theorem State.withTurn_wq : (s.withTurn t).wq = s.wq := rfl
@[simp] theorem State.withTurn_rq : (s.withTurn t).rq = s.rq := rfl
@[simp] theorem State.withTurn_rsp : (s.withTurn t).rsp = s.rsp := rfl
@[simp] theorem State.withTurn_ledq : (s.withTurn t).ledq = s.ledq := rfl
@[simp] theorem State.withTurn_uart0 : (s.withTurn t).uart0 = s.uart0 := rfl
@[simp] theorem State.withTurn_uart1 : (s.withTurn t).uart1 = s.uart1 := rfl
@[simp] theorem State.withTurn_overrun : (s.withTurn t).overrun = s.overrun := rfl
@[simp] theorem State.withTurn_startup : (s.withTurn t).startup = s.startup := rfl
@[simp] theorem State.withTurn_draws : (s.withTurn t).draws = s.draws := rfl
@[simp] theorem State.withTurn_nextTurn : (s.withTurn t).nextTurn = t := rfl
@[simp] theorem State.withTurn_turnTaken : (s.withTurn t).turnTaken = s := rfl

end

/-! ## `respond` -/

section
variable (v : Byte) (s : State)

@[simp] theorem respond_pixelCount : (respond v s).pixelCount = s.pixelCount := rfl
@[simp] theorem respond_selectedIndex : (respond v s).selectedIndex = s.selectedIndex := rfl
@[simp] theorem respond_buf : (respond v s).buf = s.buf := rfl
@[simp] theorem respond_pointer : (respond v s).pointer = s.pointer := rfl
@[simp] theorem respond_phase : (respond v s).phase = .respPush (respWord v) := rfl
@[simp] theorem respond_wq : (respond v s).wq = s.wq := rfl
@[simp] theorem respond_rq : (respond v s).rq = s.rq := rfl
@[simp] theorem respond_rsp : (respond v s).rsp = s.rsp := rfl
@[simp] theorem respond_ledq : (respond v s).ledq = s.ledq := rfl
@[simp] theorem respond_uart0 : (respond v s).uart0 = s.uart0 := rfl
@[simp] theorem respond_uart1 : (respond v s).uart1 = s.uart1 := rfl
@[simp] theorem respond_overrun : (respond v s).overrun = s.overrun := rfl
@[simp] theorem respond_startup : (respond v s).startup = s.startup := rfl
@[simp] theorem respond_turns : (respond v s).turns = s.turns := rfl
@[simp] theorem respond_draws : (respond v s).draws = s.draws := rfl

end

/-! ## `State.setSelectedPixel` -/

section
variable (p : Pixel) (s : State)

@[simp] theorem State.setSelectedPixel_pixelCount : (s.setSelectedPixel p).pixelCount = s.pixelCount := rfl
@[simp] theorem State.setSelectedPixel_selectedIndex : (s.setSelectedPixel p).selectedIndex = s.selectedIndex := rfl
@[simp] theorem State.setSelectedPixel_buf : (s.setSelectedPixel p).buf = s.buf.set s.selectedIndex p := rfl
@[simp] theorem State.setSelectedPixel_pointer : (s.setSelectedPixel p).pointer = s.pointer := rfl
@[simp] theorem State.setSelectedPixel_phase : (s.setSelectedPixel p).phase = s.phase := rfl
@[simp] theorem State.setSelectedPixel_wq : (s.setSelectedPixel p).wq = s.wq := rfl
@[simp] theorem State.setSelectedPixel_rq : (s.setSelectedPixel p).rq = s.rq := rfl
@[simp] theorem State.setSelectedPixel_rsp : (s.setSelectedPixel p).rsp = s.rsp := rfl
@[simp] theorem State.setSelectedPixel_ledq : (s.setSelectedPixel p).ledq = s.ledq := rfl
@[simp] theorem State.setSelectedPixel_uart0 : (s.setSelectedPixel p).uart0 = s.uart0 := rfl
@[simp] theorem State.setSelectedPixel_uart1 : (s.setSelectedPixel p).uart1 = s.uart1 := rfl
@[simp] theorem State.setSelectedPixel_overrun : (s.setSelectedPixel p).overrun = s.overrun := rfl
@[simp] theorem State.setSelectedPixel_startup : (s.setSelectedPixel p).startup = s.startup := rfl
@[simp] theorem State.setSelectedPixel_turns : (s.setSelectedPixel p).turns = s.turns := rfl
@[simp] theorem State.setSelectedPixel_draws : (s.setSelectedPixel p).draws = s.draws := rfl

end

/-! ## `raiseOverrun` -/

section
variable (s : State)

@[simp] theorem raiseOverrun_pixelCount : (raiseOverrun s).pixelCount = s.pixelCount := rfl
@[simp] theorem raiseOverrun_selectedIndex : (raiseOverrun s).selectedIndex = s.selectedIndex := rfl
@[simp] theorem raiseOverrun_buf : (raiseOverrun s).buf = s.buf := rfl
@[simp] theorem raiseOverrun_pointer : (raiseOverrun s).pointer = s.pointer := rfl
@[simp] theorem raiseOverrun_phase : (raiseOverrun s).phase = s.phase := rfl
@[simp] theorem raiseOverrun_wq : (raiseOverrun s).wq = s.wq := rfl
@[simp] theorem raiseOverrun_rq : (raiseOverrun s).rq = s.rq := rfl
@[simp] theorem raiseOverrun_rsp : (raiseOverrun s).rsp = s.rsp := rfl
@[simp] theorem raiseOverrun_ledq : (raiseOverrun s).ledq = s.ledq := rfl
@[simp] theorem raiseOverrun_uart0 : (raiseOverrun s).uart0 = s.uart0 := rfl
@[simp] theorem raiseOverrun_uart1 : (raiseOverrun s).uart1 = s.uart1 := rfl
@[simp] theorem raiseOverrun_overrun : (raiseOverrun s).overrun = true := rfl
@[simp] theorem raiseOverrun_startup : (raiseOverrun s).startup = s.startup := rfl
@[simp] theorem raiseOverrun_turns : (raiseOverrun s).turns = s.turns := rfl
@[simp] theorem raiseOverrun_draws : (raiseOverrun s).draws = s.draws := rfl

end

/-! ## `controllerReset` -/

section
variable (s : State)

@[simp] theorem controllerReset_pixelCount : (controllerReset s).pixelCount = 1 := rfl
@[simp] theorem controllerReset_selectedIndex : (controllerReset s).selectedIndex = 0 := rfl
@[simp] theorem controllerReset_buf : (controllerReset s).buf = bufReset := rfl
@[simp] theorem controllerReset_pointer : (controllerReset s).pointer = 0 := rfl
@[simp] theorem controllerReset_phase : (controllerReset s).phase = .idle := rfl
@[simp] theorem controllerReset_wq : (controllerReset s).wq = [] := rfl
@[simp] theorem controllerReset_rq : (controllerReset s).rq = [] := rfl
@[simp] theorem controllerReset_rsp : (controllerReset s).rsp = [] := rfl
@[simp] theorem controllerReset_ledq : (controllerReset s).ledq = [] := rfl
@[simp] theorem controllerReset_uart0 : (controllerReset s).uart0 = s.uart0 := rfl
@[simp] theorem controllerReset_uart1 : (controllerReset s).uart1 = s.uart1 := rfl
@[simp] theorem controllerReset_overrun : (controllerReset s).overrun = false := rfl
@[simp] theorem controllerReset_startup : (controllerReset s).startup = s.startup := rfl
@[simp] theorem controllerReset_turns : (controllerReset s).turns = s.turns := rfl
@[simp] theorem controllerReset_draws : (controllerReset s).draws = s.draws := rfl

end

/-! ## `State.setUart` -/

section
variable (n : UartId) (u : Uart) (s : State)

@[simp] theorem State.setUart_pixelCount : (s.setUart n u).pixelCount = s.pixelCount := by cases n <;> rfl
@[simp] theorem State.setUart_selectedIndex : (s.setUart n u).selectedIndex = s.selectedIndex := by cases n <;> rfl
@[simp] theorem State.setUart_buf : (s.setUart n u).buf = s.buf := by cases n <;> rfl
@[simp] theorem State.setUart_pointer : (s.setUart n u).pointer = s.pointer := by cases n <;> rfl
@[simp] theorem State.setUart_phase : (s.setUart n u).phase = s.phase := by cases n <;> rfl
@[simp] theorem State.setUart_wq : (s.setUart n u).wq = s.wq := by cases n <;> rfl
@[simp] theorem State.setUart_rq : (s.setUart n u).rq = s.rq := by cases n <;> rfl
@[simp] theorem State.setUart_rsp : (s.setUart n u).rsp = s.rsp := by cases n <;> rfl
@[simp] theorem State.setUart_ledq : (s.setUart n u).ledq = s.ledq := by cases n <;> rfl
@[simp] theorem State.setUart_overrun : (s.setUart n u).overrun = s.overrun := by cases n <;> rfl
@[simp] theorem State.setUart_startup : (s.setUart n u).startup = s.startup := by cases n <;> rfl
@[simp] theorem State.setUart_turns : (s.setUart n u).turns = s.turns := by cases n <;> rfl
@[simp] theorem State.setUart_draws : (s.setUart n u).draws = s.draws := by cases n <;> rfl

end

section
variable (u : Uart) (s : State)

@[simp] theorem State.setUart_u0_uart0 : (s.setUart .u0 u).uart0 = u := rfl
@[simp] theorem State.setUart_u0_uart1 : (s.setUart .u0 u).uart1 = s.uart1 := rfl
@[simp] theorem State.setUart_u1_uart0 : (s.setUart .u1 u).uart0 = s.uart0 := rfl
@[simp] theorem State.setUart_u1_uart1 : (s.setUart .u1 u).uart1 = u := rfl
@[simp] theorem State.uart_u0 : s.uart .u0 = s.uart0 := rfl
@[simp] theorem State.uart_u1 : s.uart .u1 = s.uart1 := rfl

end

@[simp] theorem State.uart_setUart_same (n : UartId) (u : Uart) (s : State) : (s.setUart n u).uart n = u := by
  cases n <;> rfl

theorem State.uart_setUart_other {n m : UartId} (h : m ≠ n) (u : Uart) (s : State) :
    (s.setUart n u).uart m = s.uart m := by
  cases n <;> cases m <;> first | rfl | exact absurd rfl h

@[simp] theorem State.setUart_self (n : UartId) (s : State) : s.setUart n (s.uart n) = s := by
  cases n <;> rfl

/-- Taking the turn commutes with replacing a transceiver. -/
theorem State.setUart_turnTaken (n : UartId) (u : Uart) (s : State) :
    s.turnTaken.setUart n u = (s.setUart n u).turnTaken := by
  cases n <;> rfl

/-- The selected pixel after it is written. -/
@[simp] theorem State.selectedPixel_setSelectedPixel (p : Pixel) (s : State) :
    (s.setSelectedPixel p).selectedPixel = p := by
  simp [State.selectedPixel, Fin.getElem_fin]

/-- Every other pixel is left alone. -/
theorem State.setSelectedPixel_buf_other (p : Pixel) (s : State) (j : Fin 250) (h : j ≠ s.selectedIndex) :
    (s.setSelectedPixel p).buf[j] = s.buf[j] := by
  have hv : s.selectedIndex.val ≠ j.val := fun e => h (Fin.ext e.symm)
  simp [Fin.getElem_fin, Vector.getElem_set_ne, hv]

end Sys2Proof.Machine
end

