-- ==== Sys2Proof/Laws/Ops.lean ====
section
/-! SUPPORT. One lemma for each shared operation, saying once everything it can do. -/

namespace Sys2Proof.Machine

/-! ## Bits: LED words, response words, cursor fields -/

theorem toNat_respWord (v : Byte) : (respWord v).toNat = v.toNat := by
  simp [respWord, BitVec.toNat_setWidth]; omega

theorem isRespWord_respWord (v : Byte) : isRespWord (respWord v) := by
  unfold isRespWord respWord
  ext i hi
  simp

theorem isLedWord_ledWord (p : Pixel) : isLedWord (ledWord p) := by
  unfold isLedWord ledWord
  ext i hi
  simp
  omega

theorem mergeByte0_eq (d : Byte) (p : Word) : mergeByte0 d p = (p &&& 0xFFFFFF00) ||| d.setWidth 32 := by
  simp [mergeByte0, mergeField]

theorem mergeByte1_eq (d : Byte) (p : Word) : mergeByte1 d p = (p &&& 0xFFFF00FF) ||| (d.setWidth 32 <<< 8) := by
  simp [mergeByte1, mergeField]

theorem mergeNibble2_eq (d : Byte) (p : Word) :
    mergeNibble2 d p = (p &&& 0xFFF0FFFF) ||| ((d.extractLsb' 0 4).setWidth 32 <<< 16) := by
  simp [mergeNibble2, mergeField]

/-- A 32-bit literal's bits, for the field lemmas below. -/
theorem getLsbD_and_or_merge (p m x : Word) (i : Nat) :
    ((p &&& m) ||| x).getLsbD i = ((p.getLsbD i && m.getLsbD i) || x.getLsbD i) := by
  simp

/-! ## Reads -/

theorem uartReadData_pending (n : UartId) (s : State) (b : Byte) (rest : List Byte) (h : (s.uart n).rx = b :: rest) :
    uartReadData n s = (b, s.setUart n { s.uart n with rx := rest }) := by
  simp [uartReadData, h]

theorem uartReadData_empty (n : UartId) (s : State) (h : (s.uart n).rx = []) :
    uartReadData n s = (Config.staleByte s.draws (s.uart n).rxreg, { s with draws := s.draws + 1 }) := by
  simp [uartReadData, h]

theorem flashReadAndAdvance_inside (s : State) (h : s.pointer.toNat < 2 ^ 20) :
    flashReadAndAdvance s =
      (Config.flash (Config.flashBase + s.pointer), { s with pointer := s.pointer + 1 }) := by
  rw [flashReadAndAdvance, if_pos h]
  rfl

theorem flashReadAndAdvance_outside (s : State) (h : 2 ^ 20 ≤ s.pointer.toNat) :
    flashReadAndAdvance s =
      (Config.drawByte s.draws, { s with pointer := s.pointer + 1, draws := s.draws + 1 }) := by
  rw [flashReadAndAdvance, if_neg (Nat.not_lt.mpr h)]

/-- Everything `uartReadData` can do. -/
theorem uartReadData_cases (n : UartId) (s : State) :
    (∃ b rest, (s.uart n).rx = b :: rest ∧ uartReadData n s = (b, s.setUart n { s.uart n with rx := rest })) ∨
    ((s.uart n).rx = [] ∧
      uartReadData n s = (Config.staleByte s.draws (s.uart n).rxreg, { s with draws := s.draws + 1 })) := by
  rcases h : (s.uart n).rx with _ | ⟨b, rest⟩
  · exact .inr ⟨rfl, uartReadData_empty n s h⟩
  · exact .inl ⟨b, rest, rfl, uartReadData_pending n s b rest h⟩

/-- Everything `flashReadAndAdvance` can do. -/
theorem flashReadAndAdvance_cases (s : State) :
    (s.pointer.toNat < 2 ^ 20 ∧ flashReadAndAdvance s =
      (Config.flash (Config.flashBase + s.pointer), { s with pointer := s.pointer + 1 })) ∨
    (2 ^ 20 ≤ s.pointer.toNat ∧ flashReadAndAdvance s =
      (Config.drawByte s.draws, { s with pointer := s.pointer + 1, draws := s.draws + 1 })) :=
  (Nat.lt_or_ge s.pointer.toNat (2 ^ 20)).imp (fun h => ⟨h, flashReadAndAdvance_inside s h⟩)
    (fun h => ⟨h, flashReadAndAdvance_outside s h⟩)

/-- What no input of the read multiplexer changes. -/
theorem readMux_frame (t : Target) (s : State) :
    (readMux t s).2.pixelCount = s.pixelCount ∧ (readMux t s).2.selectedIndex = s.selectedIndex ∧
    (readMux t s).2.buf = s.buf ∧ (readMux t s).2.phase = s.phase ∧ (readMux t s).2.wq = s.wq ∧
    (readMux t s).2.rq = s.rq ∧ (readMux t s).2.rsp = s.rsp ∧ (readMux t s).2.ledq = s.ledq ∧
    (readMux t s).2.overrun = s.overrun ∧ (readMux t s).2.startup = s.startup ∧
    (readMux t s).2.turns = s.turns := by
  have u (n : UartId) := uartReadData_cases n s
  have f := flashReadAndAdvance_cases s
  cases t <;> simp only [readMux, and_self]
  case u0data => rcases u .u0 with ⟨b, rest, -, e⟩ | ⟨-, e⟩ <;> simp [e]
  case u1data => rcases u .u1 with ⟨b, rest, -, e⟩ | ⟨-, e⟩ <;> simp [e]
  case fdata => rcases f with ⟨-, e⟩ | ⟨-, e⟩ <;> simp [e]

/-- Only the flash data input moves the cursor, and by one. -/
theorem readMux_pointer (t : Target) (s : State) :
    (readMux t s).2.pointer = if t = .fdata then s.pointer + 1 else s.pointer := by
  have u (n : UartId) := uartReadData_cases n s
  have f := flashReadAndAdvance_cases s
  cases t <;> simp only [readMux, reduceCtorEq, if_false, if_true]
  case u0data => rcases u .u0 with ⟨b, rest, -, e⟩ | ⟨-, e⟩ <;> simp [e]
  case u1data => rcases u .u1 with ⟨b, rest, -, e⟩ | ⟨-, e⟩ <;> simp [e]
  case fdata => rcases f with ⟨-, e⟩ | ⟨-, e⟩ <;> simp [e]

/-! ## The three holds -/

theorem latchStep_room (i : Fin 250) (s : State) (h : s.ledq.length < Config.ledqDepth) :
    latchStep i s = { s with
      ledq := s.ledq ++ [ledWord s.buf[i]]
      phase := if h : i.val + 1 < s.pixelCount.val then .latchEmit ⟨i.val + 1, by omega⟩ else .idle } := by
  rw [latchStep, if_pos h]

theorem latchStep_full (i : Fin 250) (s : State) (h : Config.ledqDepth ≤ s.ledq.length) : latchStep i s = s := by
  rw [latchStep, if_neg (Nat.not_lt.mpr h)]

/-- Everything the emission step can do (R80): hold, go to the next pixel, or end the latch. -/
theorem latchStep_cases (i : Fin 250) (s : State) :
    (Config.ledqDepth ≤ s.ledq.length ∧ latchStep i s = s) ∨
    (s.ledq.length < Config.ledqDepth ∧ ∃ j : Fin 250, j.val = i.val + 1 ∧ j.val < s.pixelCount.val ∧
      latchStep i s = { s with ledq := s.ledq ++ [ledWord s.buf[i]], phase := .latchEmit j }) ∨
    (s.ledq.length < Config.ledqDepth ∧ s.pixelCount.val ≤ i.val + 1 ∧
      latchStep i s = { s with ledq := s.ledq ++ [ledWord s.buf[i]], phase := .idle }) := by
  rcases Nat.lt_or_ge s.ledq.length Config.ledqDepth with h | h
  · have e := latchStep_room i s h
    have hpc := s.pixelCount.isLt
    rcases Nat.lt_or_ge (i.val + 1) s.pixelCount.val with hlt | hge
    · rw [dif_pos hlt] at e
      exact .inr (.inl ⟨h, ⟨i.val + 1, by omega⟩, rfl, hlt, e⟩)
    · rw [dif_neg (Nat.not_lt.mpr hge)] at e
      exact .inr (.inr ⟨h, hge, e⟩)
  · exact .inl ⟨h, latchStep_full i s h⟩

theorem uartTxStep_ready (n : UartId) (b : Byte) (s : State) (h : (s.uart n).txReady = true) :
    uartTxStep n b s = { s.setUart n { s.uart n with tx := (s.uart n).tx ++ [b] } with phase := .idle } := by
  rw [uartTxStep, if_pos h]

theorem uartTxStep_busy (n : UartId) (b : Byte) (s : State) (h : (s.uart n).txReady = false) :
    uartTxStep n b s = s := by
  rw [uartTxStep, if_neg (by simp [h])]

theorem respPushStep_room (w : Word) (s : State) (h : s.rsp.length < Config.rspDepth) :
    respPushStep w s = { s with rsp := s.rsp ++ [w], phase := .idle } := by
  rw [respPushStep, if_pos h]

theorem respPushStep_full (w : Word) (s : State) (h : Config.rspDepth ≤ s.rsp.length) : respPushStep w s = s := by
  rw [respPushStep, if_neg (Nat.not_lt.mpr h)]

/-! ## Widths the model leaves open -/

/-- The status byte of a number, whatever the width of the status word. -/
theorem statusByte_ofNat (n : Nat) : statusByte (BitVec.ofNat Config.uartStatusW n) = BitVec.ofNat 8 n := by
  apply BitVec.eq_of_toNat_eq
  have h : (2 : Nat) ^ 8 ∣ 2 ^ Config.uartStatusW := Nat.pow_dvd_pow 2 (Nat.le_add_left 8 _)
  simpa [statusByte] using Nat.mod_mod_of_dvd n h

theorem toNat_statusByte (s : BitVec Config.uartStatusW) : (statusByte s).toNat = s.toNat % 256 := by
  simp [statusByte]

end Sys2Proof.Machine
end

