-- ==== Sys2Proof/Laws/Step.lean ====
section
/-! SUPPORT. What a step can do, said once: every invariant is a short case analysis over `step_cases` and
`dispatcherStep_cases`. -/

namespace Sys2Proof.Machine

/-! ## Turns -/

theorem State.turnAt_turnTaken (k : Nat) (s : State) : s.turnTaken.turnAt k = s.turnAt (k + 1) := rfl

theorem State.turnsTaken_turnTaken (n : Nat) (s : State) : s.turnTaken.turnsTaken n = s.turnsTaken (n + 1) := rfl

@[simp] theorem State.turnsTaken_zero (s : State) : s.turnsTaken 0 = s := rfl

/-- Taking turns one after another. -/
theorem Turns.takenFor_add (m n : Nat) (u : Turns) : (u.takenFor m).takenFor n = u.takenFor (m + n) := by
  induction m generalizing u with
  | zero => simp [Turns.takenFor]
  | succ m ih => rw [Nat.succ_add]; exact ih u.taken

/-- With a turn listed, that is the next one, and the others come after it. -/
theorem Turns.next_taken_of_listed {t : Turn} {rest : List Turn} {u : Turns} (h : u.listed = t :: rest) :
    u.next = t ∧ u.taken = ⟨rest, u.rounds⟩ := by
  simp [Turns.next, Turns.taken, Turns.atHand, h]

/-- With none listed, the next round begins. -/
theorem Turns.next_taken_of_none {u : Turns} (h : u.listed = []) :
    u.next = (roundTurns u.rounds).headD .dispatcher ∧
      u.taken = ⟨(roundTurns u.rounds).tail, u.rounds + 1⟩ := by
  simp [Turns.next, Turns.taken, Turns.atHand, h]

theorem State.dispatcherMovesFor_succ {n : Nat} {s : State} :
    s.dispatcherMovesFor (n + 1) ↔ s.dispatcherMoves ∧ s.turnTaken.dispatcherMovesFor n := by
  simp only [State.dispatcherMovesFor, State.dispatcherMoves, State.nextTurn, State.turnAt_turnTaken,
    State.turnTaken_overrun]
  constructor
  · rintro ⟨ho, h⟩
    exact ⟨⟨ho, h 0 (Nat.succ_pos n)⟩, ho, fun k hk => h (k + 1) (Nat.succ_lt_succ hk)⟩
  · rintro ⟨⟨ho, h0⟩, -, h⟩
    refine ⟨ho, fun k hk => ?_⟩
    cases k with
    | zero => exact h0
    | succ k => exact h k (Nat.lt_of_succ_lt_succ hk)

theorem State.dispatcherMovesFor_mono {m n : Nat} {s : State} (h : s.dispatcherMovesFor n) (hmn : m ≤ n) :
    s.dispatcherMovesFor m :=
  ⟨h.1, fun k hk => h.2 k (Nat.lt_of_lt_of_le hk hmn)⟩

/-- Whose turns come next rests on `overrun` and `turns` alone. -/
theorem State.dispatcherMovesFor_congr {n : Nat} {s t : State} (h : s.dispatcherMovesFor n)
    (ho : t.overrun = s.overrun) (ht : t.turns = s.turns) : t.dispatcherMovesFor n := by
  simpa only [State.dispatcherMovesFor, State.turnAt, ho, ht] using h

/-! ## Steps -/

theorem step_of_dispatcherMoves {s : State} (h : s.dispatcherMoves) : step s = dispatcherStep s.turnTaken := by
  simp [step, h.1, h.2]

theorem step_of_environmentMoves {s : State} {m : Move} (h : s.environmentMoves m) :
    step s = .next (environmentMove m s.turnTaken) := by
  simp [step, h.1, h.2]

/-- In every state an overrun is recorded, or the dispatcher moves, or the environment does. -/
theorem turn_cases (s : State) : s.overrun = true ∨ s.dispatcherMoves ∨ ∃ m, s.environmentMoves m := by
  cases ho : s.overrun with
  | true => exact .inl rfl
  | false =>
    cases ht : s.nextTurn with
    | dispatcher => exact .inr (.inl ⟨ho, ht⟩)
    | environment m => exact .inr (.inr ⟨m, ho, ht⟩)

theorem step_withTurn_dispatcher {s : State} (h : s.overrun = false) :
    step (s.withTurn .dispatcher) = dispatcherStep s :=
  step_of_dispatcherMoves (s := s.withTurn .dispatcher) ⟨h, rfl⟩

theorem step_withTurn_environment (m : Move) {s : State} (h : s.overrun = false) :
    step (s.withTurn (.environment m)) = .next (environmentMove m s) :=
  step_of_environmentMoves (s := s.withTurn (.environment m)) ⟨h, rfl⟩

theorem step_overrun {s : State} (h : s.overrun = true) : step s = .fault .overrun := by
  simp [step, h]

/-- Everything a step that answers a next state can do. -/
theorem step_cases {s t : State} (h : step s = .next t) :
    (s.dispatcherMoves ∧ dispatcherStep s.turnTaken = .next t) ∨
      ∃ m, s.environmentMoves m ∧ t = environmentMove m s.turnTaken := by
  rcases turn_cases s with ho | hd | ⟨m, hm⟩
  · rw [step_overrun ho] at h; cases h
  · exact .inl ⟨hd, by rw [← step_of_dispatcherMoves hd, h]⟩
  · rw [step_of_environmentMoves hm] at h
    cases h
    exact .inr ⟨m, hm, rfl⟩

/-- Everything a dispatcher step that answers a next state can do (R62). -/
theorem dispatcherStep_cases {s t : State} (h : dispatcherStep s = .next t) :
    (∃ w ws, s.phase = .idle ∧ s.wq = w :: ws ∧ exec (decodeWrite w) { s with wq := ws } = .next t) ∨
    (∃ q qs, s.phase = .idle ∧ s.wq = [] ∧ s.rq = q :: qs ∧ exec (decodeRead q) { s with rq := qs } = .next t) ∨
    (s.phase = .idle ∧ s.wq = [] ∧ s.rq = [] ∧ t = s) ∨
    (∃ i, s.phase = .latchEmit i ∧ t = latchStep i s) ∨
    (∃ n b, s.phase = .uartTx n b ∧ t = uartTxStep n b s) ∨
    ∃ w, s.phase = .respPush w ∧ t = respPushStep w s := by
  cases hp : s.phase with
  | idle =>
    simp only [dispatcherStep, hp, poll] at h
    rcases hw : s.wq with _ | ⟨w, ws⟩
    · rcases hr : s.rq with _ | ⟨q, qs⟩
      · simp only [hw, hr] at h
        cases h
        exact .inr (.inr (.inl ⟨rfl, rfl, rfl, rfl⟩))
      · simp only [hw, hr] at h
        exact .inr (.inl ⟨q, qs, rfl, rfl, rfl, h⟩)
    · simp only [hw] at h
      exact .inl ⟨w, ws, rfl, rfl, h⟩
  | latchEmit i =>
    simp only [dispatcherStep, hp] at h
    cases h
    exact .inr (.inr (.inr (.inl ⟨i, rfl, rfl⟩)))
  | uartTx n b =>
    simp only [dispatcherStep, hp] at h
    cases h
    exact .inr (.inr (.inr (.inr (.inl ⟨n, b, rfl, rfl⟩))))
  | respPush w =>
    simp only [dispatcherStep, hp] at h
    cases h
    exact .inr (.inr (.inr (.inr (.inr ⟨w, rfl, rfl⟩))))

/-- A read is serviced through the multiplexer's input for its address (R65, R67). -/
theorem exec_decodeRead (q : Word) (s : State) :
    exec (decodeRead q) s = serviceRead (decodeAddress (rreqAddress q)) s := by
  unfold decodeRead decodeReadAt
  cases decodeAddress (rreqAddress q) <;> rfl

/-- One more step of a run under an order of turns. -/
theorem runUnder_succ (f : Nat → Turn) (n : Nat) {s t : State} (h : step (s.withTurn (f 0)) = .next t) :
    runUnder f (n + 1) s = runUnder (fun k => f (k + 1)) n t := by
  simp only [runUnder, h]

/-- One more step of a run. -/
theorem run_succ (n : Nat) {s t : State} (h : step s = .next t) :
    Host.Core.run Sys2Proof.core (n + 1) s = Host.Core.run Sys2Proof.core n t := by
  have hc : Sys2Proof.core.step s = .next t := h
  simp only [Host.Core.run, hc]

end Sys2Proof.Machine
end

