-- ==== Sys2Proof/Laws/Environment.lean ====
section
/-! SUPPORT. What each move of the environment does, said once (60_exceptions.md R122). -/

namespace Sys2Proof.Machine

theorem pushWriteMove_room {w : Word} {s : State} (hr : s.startup.masterReleased = true)
    (h : s.wq.length < Config.wqDepth) : pushWriteMove w s = { s with wq := s.wq ++ [w] } := by
  rw [pushWriteMove, if_pos hr, if_pos h]

theorem pushWriteMove_full {w : Word} {s : State} (hr : s.startup.masterReleased = true)
    (h : Config.wqDepth ≤ s.wq.length) : pushWriteMove w s = raiseOverrun s := by
  rw [pushWriteMove, if_pos hr, if_neg (Nat.not_lt.mpr h)]

theorem pushWriteMove_held {w : Word} {s : State} (hr : s.startup.masterReleased = false) :
    pushWriteMove w s = s := by
  rw [pushWriteMove, if_neg (by simp [hr])]

theorem pushReadMove_room {q : Word} {s : State} (hr : s.startup.masterReleased = true)
    (h : s.rq.length < Config.rqDepth) : pushReadMove q s = { s with rq := s.rq ++ [q] } := by
  rw [pushReadMove, if_pos hr, if_pos h]

theorem pushReadMove_full {q : Word} {s : State} (hr : s.startup.masterReleased = true)
    (h : Config.rqDepth ≤ s.rq.length) : pushReadMove q s = raiseOverrun s := by
  rw [pushReadMove, if_pos hr, if_neg (Nat.not_lt.mpr h)]

theorem pushReadMove_held {q : Word} {s : State} (hr : s.startup.masterReleased = false) :
    pushReadMove q s = s := by
  rw [pushReadMove, if_neg (by simp [hr])]

/-- Everything a push of a write can do. -/
theorem pushWriteMove_cases (w : Word) (s : State) :
    (s.startup.masterReleased = false ∧ pushWriteMove w s = s) ∨
    (s.startup.masterReleased = true ∧ s.wq.length < Config.wqDepth ∧
      pushWriteMove w s = { s with wq := s.wq ++ [w] }) ∨
    (s.startup.masterReleased = true ∧ Config.wqDepth ≤ s.wq.length ∧ pushWriteMove w s = raiseOverrun s) := by
  cases hr : s.startup.masterReleased with
  | false => exact .inl ⟨rfl, pushWriteMove_held hr⟩
  | true =>
    rcases Nat.lt_or_ge s.wq.length Config.wqDepth with h | h
    · exact .inr (.inl ⟨rfl, h, pushWriteMove_room hr h⟩)
    · exact .inr (.inr ⟨rfl, h, pushWriteMove_full hr h⟩)

/-- Everything a push of a read can do. -/
theorem pushReadMove_cases (q : Word) (s : State) :
    (s.startup.masterReleased = false ∧ pushReadMove q s = s) ∨
    (s.startup.masterReleased = true ∧ s.rq.length < Config.rqDepth ∧
      pushReadMove q s = { s with rq := s.rq ++ [q] }) ∨
    (s.startup.masterReleased = true ∧ Config.rqDepth ≤ s.rq.length ∧ pushReadMove q s = raiseOverrun s) := by
  cases hr : s.startup.masterReleased with
  | false => exact .inl ⟨rfl, pushReadMove_held hr⟩
  | true =>
    rcases Nat.lt_or_ge s.rq.length Config.rqDepth with h | h
    · exact .inr (.inl ⟨rfl, h, pushReadMove_room hr h⟩)
    · exact .inr (.inr ⟨rfl, h, pushReadMove_full hr h⟩)

/-- Everything the release of the master can do. -/
theorem releaseMasterMove_cases (s : State) :
    (s.startup.busArmed = true ∧ s.startup.clockStarted = true ∧
      releaseMasterMove s = { s with startup := { s.startup with masterReleased := true } }) ∨
    releaseMasterMove s = s := by
  unfold releaseMasterMove
  split
  next h => exact .inl ⟨by simp_all, by simp_all, rfl⟩
  next => exact .inr rfl

/-- The moves that only replace a transceiver. -/
theorem environmentMove_uart {m : Move} {s : State}
    (h : (∃ n c, m = .uartReceive n c) ∨ (∃ n, m = .uartTransmit n) ∨ ∃ n st r g, m = .uartChange n st r g) :
    ∃ n u, environmentMove m s = s.setUart n u := by
  rcases h with ⟨n, c, rfl⟩ | ⟨n, rfl⟩ | ⟨n, st, r, g, rfl⟩
  · exact ⟨n, _, rfl⟩
  · exact ⟨n, _, rfl⟩
  · exact ⟨n, _, rfl⟩

end Sys2Proof.Machine
end

