-- ==== Sys2Proof/Laws/PerInstr.lean ====
section
/-! SUPPORT. The statements made about every operation, one lemma for each constructor of `Instr`. -/

namespace Sys2Proof.Laws.RoundTrip

/-- Decoding the word of a well-formed operation, in the operation's queue, gives the operation (R55, R60). -/
def Statement (i : Instr) : Prop := i.wellFormed = true → decodeRequest i.channel (encode i) = i

/-- A write's word decodes by the address and data it was made from. -/
theorem decode_wreqWord (a d : Byte) : decodeRequest .write (wreqWord a d) = decodeWriteAt a d := by
  simp [decodeRequest, decodeWrite]

/-- A read's word decodes by the address it was made from. -/
theorem decode_rreqWord (a : Byte) : decodeRequest .read (rreqWord a) = decodeReadAt a := by
  simp [decodeRequest, decodeRead]

theorem wrU0Data (d : Byte) : Statement (.wrU0Data d) := fun _ => decode_wreqWord _ _

theorem wrU0Stat (d : Byte) : Statement (.wrU0Stat d) := fun _ => decode_wreqWord _ _

theorem wrU1Data (d : Byte) : Statement (.wrU1Data d) := fun _ => decode_wreqWord _ _

theorem wrU1Stat (d : Byte) : Statement (.wrU1Stat d) := fun _ => decode_wreqWord _ _

theorem wrLedctlReset : Statement .wrLedctlReset := fun _ => decode_wreqWord _ _

theorem wrLedctlLatch : Statement .wrLedctlLatch := fun _ => decode_wreqWord _ _

theorem wrLedctlIgnore (v : Byte) : Statement (.wrLedctlIgnore v) := fun h => by
  have h := of_decide_eq_true h
  exact (decode_wreqWord _ _).trans (decodeLedctl_ignore h.1 h.2)

theorem wrLedctlSelect (v : Byte) : Statement (.wrLedctlSelect v) := fun h => (decode_wreqWord _ _).trans (decodeLedctl_select (of_decide_eq_true h))

theorem wrLedB (d : Byte) : Statement (.wrLedB d) := fun _ => decode_wreqWord _ _

theorem wrLedR (d : Byte) : Statement (.wrLedR d) := fun _ => decode_wreqWord _ _

theorem wrLedG (d : Byte) : Statement (.wrLedG d) := fun _ => decode_wreqWord _ _

theorem wrFdata (d : Byte) : Statement (.wrFdata d) := fun _ => decode_wreqWord _ _

theorem wrFaddr0 (d : Byte) : Statement (.wrFaddr0 d) := fun _ => decode_wreqWord _ _

theorem wrFaddr1 (d : Byte) : Statement (.wrFaddr1 d) := fun _ => decode_wreqWord _ _

theorem wrFaddr2 (d : Byte) : Statement (.wrFaddr2 d) := fun _ => decode_wreqWord _ _

theorem wrUnmapped (a : Byte) (d : Byte) : Statement (.wrUnmapped a d) := fun h => by
  have h := decodeAddress_unmapped (of_decide_eq_true h)
  simp only [encode, Instr.channel, decode_wreqWord, decodeWriteAt, h]

theorem rdU0Data : Statement .rdU0Data := fun _ => decode_rreqWord _

theorem rdU0Stat : Statement .rdU0Stat := fun _ => decode_rreqWord _

theorem rdU1Data : Statement .rdU1Data := fun _ => decode_rreqWord _

theorem rdU1Stat : Statement .rdU1Stat := fun _ => decode_rreqWord _

theorem rdLedctl : Statement .rdLedctl := fun _ => decode_rreqWord _

theorem rdLedB : Statement .rdLedB := fun _ => decode_rreqWord _

theorem rdLedR : Statement .rdLedR := fun _ => decode_rreqWord _

theorem rdLedG : Statement .rdLedG := fun _ => decode_rreqWord _

theorem rdFdata : Statement .rdFdata := fun _ => decode_rreqWord _

theorem rdFaddr0 : Statement .rdFaddr0 := fun _ => decode_rreqWord _

theorem rdFaddr1 : Statement .rdFaddr1 := fun _ => decode_rreqWord _

theorem rdFaddr2 : Statement .rdFaddr2 := fun _ => decode_rreqWord _

theorem rdUnmapped (a : Byte) : Statement (.rdUnmapped a) := fun h => by
  have h := decodeAddress_unmapped (of_decide_eq_true h)
  simp only [encode, Instr.channel, decode_rreqWord, decodeReadAt, h]

end Sys2Proof.Laws.RoundTrip
end

