-- ==== Sys2Proof/Tests/Slice0.lean ====
section
/-! SUPPORT. The model's own tests, each on one step of a small state with the result taken from 95_test_vectors.md or
from the rule its comment names, and one witness for every obligation that has hypotheses (`witness_<Name>`). -/

namespace Sys2Proof.Tests

open Sys2Proof.Machine

/-! ## Small states -/

/-- The launch state of R129 after the master's release, the parameters it leaves open filled in by hand: a black pixel
buffer, two quiet transceivers, the dispatcher's turn. -/
def base : State where
  pixelCount := 1
  selectedIndex := 0
  buf := Vector.replicate 250 ⟨0, 0, 0⟩
  pointer := 0
  phase := .idle
  wq := []
  rq := []
  rsp := []
  ledq := []
  uart0 := ⟨[], 0, [], true, 0⟩
  uart1 := ⟨[], 0, [], true, 0⟩
  overrun := false
  startup := ⟨true, true, true⟩
  turns := ⟨[.dispatcher], 0⟩
  draws := 0

/-- `base` at cursor `p`. -/
def atPointer (p : Word) : State := { base with pointer := p }

/-- `base` with logical length `c` and selected index `i`. -/
def atLed (c : Fin 251) (i : Fin 250) : State := { base with pixelCount := c, selectedIndex := i }

/-- Vector 2.5's start: index 3 selected, two pixels coloured. -/
def coloured : State :=
  { base with
    pixelCount := 6
    selectedIndex := 3
    buf := (base.buf.set 3 ⟨0xAA, 0xBB, 0xCC⟩).set 4 ⟨0x01, 0x02, 0x03⟩ }

/-- `base` with the environment's move `m` due. -/
def due (m : Move) : State := { base with turns := ⟨[.environment m], 0⟩ }

/-- The operation answers a next state that meets `p`. -/
def gives (i : Instr) (s : State) (p : State → Bool) : Bool :=
  match exec i s with
  | .next t => p t
  | .fault _ => false
  | .refused _ => false

/-- The step answers a next state that meets `p`. -/
def stepGives (s : State) (p : State → Bool) : Bool :=
  match step s with
  | .next t => p t
  | .fault _ => false
  | .refused _ => false

/-- The phase in which the response `v` waits. -/
def answering (v : Word) (t : State) : Bool := decide (t.phase = .respPush v)

/-- The logical length and the selected index. -/
def led (c : Fin 251) (i : Fin 250) (t : State) : Bool := decide (t.pixelCount = c ∧ t.selectedIndex = i)

/-! ## Well-formedness: a term each check refuses, and its neighbours (R55) -/

theorem test_wellFormed_select : (Instr.wrLedctlSelect 250).wellFormed = false ∧
    (Instr.wrLedctlSelect 249).wellFormed = true := by decide

theorem test_wellFormed_ignore : (Instr.wrLedctlIgnore 249).wellFormed = false ∧
    (Instr.wrLedctlIgnore 254).wellFormed = false ∧ (Instr.wrLedctlIgnore 250).wellFormed = true ∧
    (Instr.wrLedctlIgnore 253).wellFormed = true := by decide

theorem test_wellFormed_wrUnmapped : (Instr.wrUnmapped 0x80 0).wellFormed = false ∧
    (Instr.wrUnmapped 0x81 0).wellFormed = true := by decide

theorem test_wellFormed_rdUnmapped : (Instr.rdUnmapped 0x96).wellFormed = false ∧
    (Instr.rdUnmapped 0x97).wellFormed = true := by decide

/-! ## Decoding: a word for every constructor, laid out by hand from R50, R51 and R60 (address in 15:8 and data in 7:0,
or address in 7:0) -/

theorem test_decode_serial_writes :
    decodeWrite 0b00000000000000000000000001000001 = .wrU0Data 0x41 ∧
    decodeWrite 0b00000000000000000000001011111111 = .wrU0Stat 0xFF ∧
    decodeWrite 0b00000000000000000000100001000010 = .wrU1Data 0x42 ∧
    decodeWrite 0b00000000000000000000101000000000 = .wrU1Stat 0x00 := by decide

theorem test_decode_ledctl_writes :
    decodeWrite 0b00000000000000001000000011111110 = .wrLedctlReset ∧
    decodeWrite 0b00000000000000001000000011111111 = .wrLedctlLatch ∧
    decodeWrite 0b00000000000000001000000011111010 = .wrLedctlIgnore 250 ∧
    decodeWrite 0b00000000000000001000000011111101 = .wrLedctlIgnore 253 ∧
    decodeWrite 0b00000000000000001000000011111001 = .wrLedctlSelect 249 ∧
    decodeWrite 0b00000000000000001000000000000000 = .wrLedctlSelect 0 := by decide

theorem test_decode_colour_writes :
    decodeWrite 0b00000000000000001000001000010000 = .wrLedB 0x10 ∧
    decodeWrite 0b00000000000000001000010000100000 = .wrLedR 0x20 ∧
    decodeWrite 0b00000000000000001000011000110000 = .wrLedG 0x30 := by decide

theorem test_decode_flash_writes :
    decodeWrite 0b00000000000000001001000001010101 = .wrFdata 0x55 ∧
    decodeWrite 0b00000000000000001001001011111110 = .wrFaddr0 0xFE ∧
    decodeWrite 0b00000000000000001001010000000001 = .wrFaddr1 0x01 ∧
    decodeWrite 0b00000000000000001001011010101111 = .wrFaddr2 0xAF := by decide

theorem test_decode_serial_reads :
    decodeRead 0b00000000000000000000000000000000 = .rdU0Data ∧
    decodeRead 0b00000000000000000000000000000010 = .rdU0Stat ∧
    decodeRead 0b00000000000000000000000000001000 = .rdU1Data ∧
    decodeRead 0b00000000000000000000000000001010 = .rdU1Stat := by decide

theorem test_decode_led_reads :
    decodeRead 0b00000000000000000000000010000000 = .rdLedctl ∧
    decodeRead 0b00000000000000000000000010000010 = .rdLedB ∧
    decodeRead 0b00000000000000000000000010000100 = .rdLedR ∧
    decodeRead 0b00000000000000000000000010000110 = .rdLedG := by decide

theorem test_decode_flash_reads :
    decodeRead 0b00000000000000000000000010010000 = .rdFdata ∧
    decodeRead 0b00000000000000000000000010010010 = .rdFaddr0 ∧
    decodeRead 0b00000000000000000000000010010100 = .rdFaddr1 ∧
    decodeRead 0b00000000000000000000000010010110 = .rdFaddr2 := by decide

/-- Vector 2.1: neighbours of mapped addresses, the top of the space, and 0x81 with the latch code. -/
theorem test_decode_unmapped :
    decodeWrite 0x000081FF = .wrUnmapped 0x81 0xFF ∧ decodeWrite 0x0000FF00 = .wrUnmapped 0xFF 0x00 ∧
    decodeRead 0x00000001 = .rdUnmapped 0x01 ∧ decodeRead 0x0000000C = .rdUnmapped 0x0C ∧
    decodeRead 0x0000007F = .rdUnmapped 0x7F ∧ decodeRead 0x00000098 = .rdUnmapped 0x98 := by decide

/-- Vector 2.1: the ignored upper bits. -/
theorem test_decode_ignored_bits :
    decodeWrite 0xDEAD8005 = .wrLedctlSelect 0x05 ∧ decodeRead 0xFFFFFF80 = .rdLedctl := by decide

/-- The encoder against words of 95_test_vectors.md, programs P1 and P2. -/
theorem test_encode : encode (.wrLedctlSelect 1) = 0x00008001 ∧ encode .wrLedctlLatch = 0x000080FF ∧
    encode (.wrFaddr2 0xAF) = 0x000096AF ∧ encode .rdFdata = 0x00000090 := by decide

/-! ## A bare number as a request (log entries 13 and 14) -/

theorem test_decodeTableWord : decodeTableWord 32 0x000080FE = some .wrLedctlReset ∧
    decodeTableWord 16 0x0041 = some (.wrU0Data 0x41) ∧ decodeTableWord 32 0x00000090 = some .rdFdata ∧
    decodeTableWord 33 0 = none ∧ decodeTableWord 8 0x100 = none := by decide

theorem test_withFetchWord_write :
    stepGives (State.reset.withFetchWord 32 0x00009401) (fun t => decide (t.pointer = 0x00000100)) = true := by decide

theorem test_withFetchWord_read :
    stepGives (State.reset.withFetchWord 32 0x00000080) (answering 0x00000000) = true := by decide

/-! ## LED controller (vectors 2.3, 2.4, 2.5, S7) -/

theorem test_select_grows : gives (.wrLedctlSelect 0x05) (atLed 1 0) (led 6 5) = true ∧
    gives (.wrLedctlSelect 0xF9) (atLed 1 0) (led 250 249) = true ∧
    gives (.wrLedctlSelect 0x06) (atLed 6 2) (led 7 6) = true := by decide

theorem test_select_keeps_length : gives (.wrLedctlSelect 0x02) (atLed 6 5) (led 6 2) = true ∧
    gives (.wrLedctlSelect 0x05) (atLed 6 2) (led 6 5) = true ∧
    gives (.wrLedctlSelect 0x00) (atLed 250 249) (led 250 0) = true := by decide

theorem test_ignore : gives (.wrLedctlIgnore 0xFA) (atLed 6 2) (led 6 2) = true ∧
    gives (.wrLedctlIgnore 0xFD) (atLed 6 2) (led 6 2) = true := by decide

theorem test_led_reset : gives .wrLedctlReset (atLed 250 249) (led 1 0) = true := by decide

theorem test_led_reset_keeps_pixels :
    gives .wrLedctlReset coloured (fun t => decide (t.buf[3] = ⟨0xAA, 0xBB, 0xCC⟩)) = true := by decide

theorem test_latch_starts : gives .wrLedctlLatch (atLed 6 2)
    (fun t => decide (t.phase = .latchEmit 0) && led 6 2 t && decide (t.ledq = [])) = true := by decide

/-- S7: blue 0x10, red 0x20 and green 0x30 make the word 0x10203000. -/
theorem test_latch_word :
    stepGives { base with phase := .latchEmit 0, buf := base.buf.set 0 ⟨0x20, 0x30, 0x10⟩ }
      (fun t => decide (t.ledq = [0x10203000] ∧ t.phase = .idle)) = true := by decide

/-- Vector 2.6: the first of three words. -/
theorem test_latch_next :
    stepGives { base with phase := .latchEmit 0, pixelCount := 3 }
      (fun t => decide (t.ledq.length = 1 ∧ t.phase = .latchEmit 1)) = true := by decide

theorem test_ledWord : ledWord ⟨0x12, 0x34, 0x56⟩ = 0x56123400 ∧ ledWord ⟨0xFF, 0x00, 0x00⟩ = 0x00FF0000 ∧
    ledWord ⟨0x00, 0xFF, 0x00⟩ = 0x0000FF00 ∧ ledWord ⟨0x00, 0x00, 0xFF⟩ = 0xFF000000 ∧
    ledWord ⟨0x00, 0x80, 0xFF⟩ = 0xFF008000 := by decide

theorem test_read_ledctl : gives .rdLedctl (atLed 250 249) (answering 0x000000F9) = true := by decide

theorem test_read_colours : gives .rdLedB coloured (answering 0xCC) = true ∧
    gives .rdLedR coloured (answering 0xAA) = true ∧ gives .rdLedG coloured (answering 0xBB) = true := by decide

theorem test_write_red : gives (.wrLedR 0x11) coloured
    (fun t => decide (t.buf[3] = ⟨0x11, 0xBB, 0xCC⟩ ∧ t.buf[4] = ⟨0x01, 0x02, 0x03⟩)) = true := by decide

theorem test_write_green : gives (.wrLedG 0x11) coloured
    (fun t => decide (t.buf[3] = ⟨0xAA, 0x11, 0xCC⟩)) = true := by decide

theorem test_write_blue : gives (.wrLedB 0x11) coloured
    (fun t => decide (t.buf[3] = ⟨0xAA, 0xBB, 0x11⟩)) = true := by decide

/-! ## Flash window controller (vectors 2.7 and 2.8) -/

theorem test_faddr0 :
    gives (.wrFaddr0 0xAB) (atPointer 0x00012345) (fun t => decide (t.pointer = 0x000123AB)) = true ∧
    gives (.wrFaddr0 0x00) (atPointer 0x000123FF) (fun t => decide (t.pointer = 0x00012300)) = true := by decide

theorem test_faddr1 :
    gives (.wrFaddr1 0xCD) (atPointer 0x00012345) (fun t => decide (t.pointer = 0x0001CD45)) = true := by decide

theorem test_faddr2 :
    gives (.wrFaddr2 0xFE) (atPointer 0x00012345) (fun t => decide (t.pointer = 0x000E2345)) = true ∧
    gives (.wrFaddr2 0x00) (atPointer 0x00F12345) (fun t => decide (t.pointer = 0x00F02345)) = true ∧
    gives (.wrFaddr2 0x00) (atPointer 0x00100001) (fun t => decide (t.pointer = 0x00100001)) = true := by decide

theorem test_read_faddr : gives .rdFaddr0 (atPointer 0x000A5C3F) (answering 0x3F) = true ∧
    gives .rdFaddr1 (atPointer 0x000A5C3F) (answering 0x5C) = true ∧
    gives .rdFaddr2 (atPointer 0x00FA5C3F) (answering 0x0A) = true := by decide

theorem test_fdata_advances :
    gives .rdFdata (atPointer 0x0000FFFF) (fun t => decide (t.pointer = 0x00010000 ∧ t.draws = 0)) = true ∧
    gives .rdFdata (atPointer 0x000FFFFF) (fun t => decide (t.pointer = 0x00100000 ∧ t.draws = 0)) = true := by
  decide

theorem test_fdata_outside :
    gives .rdFdata (atPointer 0x00100000) (fun t => decide (t.pointer = 0x00100001 ∧ t.draws = 1)) = true ∧
    gives .rdFdata (atPointer 0xFFFFFFFF) (fun t => decide (t.pointer = 0x00000000 ∧ t.draws = 1)) = true := by
  decide

theorem test_write_fdata :
    gives (.wrFdata 0x55) (atPointer 0x00000100) (fun t => decide (t.pointer = 0x00000100)) = true := by decide

/-! ## Serial proxy (vector 2.9) -/

theorem test_write_u0data : stepGives { base with phase := .uartTx .u0 0x00, uart0 := ⟨[], 0, [0x41], true, 0⟩ }
    (fun t => decide (t.uart0.tx = [0x41, 0x00] ∧ t.uart1.tx = [] ∧ t.phase = .idle)) = true := by decide

theorem test_write_u1data : gives (.wrU1Data 0x42) base
    (fun t => decide (t.phase = .uartTx .u1 0x42 ∧ t.uart1.tx = [])) = true := by decide

theorem test_write_held : stepGives { base with phase := .uartTx .u1 0x42, uart1 := ⟨[], 0, [], false, 0⟩ }
    (fun t => decide (t.phase = .uartTx .u1 0x42 ∧ t.uart1.tx = [])) = true := by decide

theorem test_read_u0data : gives .rdU0Data { base with uart0 := ⟨[0x68, 0x69], 0, [], true, 0⟩ }
    (fun t => answering 0x68 t && decide (t.uart0.rx = [0x69])) = true := by decide

theorem test_read_u1data :
    gives .rdU1Data { base with uart0 := ⟨[0x01], 0, [], true, 0⟩, uart1 := ⟨[0x0D], 0, [], true, 0⟩ }
      (fun t => answering 0x0D t && decide (t.uart1.rx = [] ∧ t.uart0.rx = [0x01])) = true := by decide

theorem test_read_empty : gives .rdU0Data base
    (fun t => decide (t.uart0.rx = [] ∧ t.draws = 1)) = true := by decide

/-- Vector 2.9: the low 8 bits of the status words 0x90 and 0x1FF, whatever the width. -/
theorem test_read_status (s : State) :
    exec .rdU0Stat { s with uart0 := ⟨[], 0, [], true, BitVec.ofNat _ 0x90⟩ } =
      .next { s with uart0 := ⟨[], 0, [], true, BitVec.ofNat _ 0x90⟩, phase := .respPush 0x90 } ∧
    exec .rdU1Stat { s with uart1 := ⟨[], 0, [], true, BitVec.ofNat _ 0x1FF⟩ } =
      .next { s with uart1 := ⟨[], 0, [], true, BitVec.ofNat _ 0x1FF⟩, phase := .respPush 0xFF } := by
  simp [exec, execRdU0Stat, execRdU1Stat, serviceRead, readMux, statusByte_ofNat, respond, respWord]

theorem test_write_status : gives (.wrU0Stat 0xFF) base (fun t => decide (t.phase = .idle ∧ t.uart0.tx = [])) = true ∧
    gives (.wrU1Stat 0x00) base (fun t => decide (t.phase = .idle ∧ t.uart1.tx = [])) = true := by decide

/-! ## Unmapped addresses (S1, vector 2.1) -/

theorem test_unmapped : gives (.rdUnmapped 0x91) (atPointer 0x00000100)
      (fun t => answering 0x00 t && decide (t.pointer = 0x00000100)) = true ∧
    gives (.wrUnmapped 0x81 0xFF) (atLed 6 2) (fun t => led 6 2 t && decide (t.phase = .idle)) = true := by decide

/-! ## Dispatcher and environment (vectors V-D1 to V-D5) -/

theorem test_spin : stepGives base (fun t => decide (t.phase = .idle ∧ t.wq = [] ∧ t.rq = [])) = true := by decide

/-- V-D2, first step: a write is popped although a read is pending. -/
theorem test_write_first : stepGives { base with wq := [0x00009211, 0x00009422], rq := [0x00000092] }
    (fun t => decide (t.pointer = 0x00000011 ∧ t.wq = [0x00009422] ∧ t.rq = [0x00000092])) = true := by decide

/-- V-D2, third step. -/
theorem test_read_next : stepGives { base with pointer := 0x00002211, rq := [0x00000092] }
    (fun t => answering 0x00000011 t && decide (t.rq = [])) = true := by decide

/-- V-D2, fourth step. -/
theorem test_response_pushed : stepGives { base with phase := .respPush 0x00000011 }
    (fun t => decide (t.rsp = [0x00000011] ∧ t.phase = .idle)) = true := by decide

/-- V-D5: with room the word is queued, and an overrun stops the next step. -/
theorem test_push : stepGives (due (.pushWrite 0x00000041))
      (fun t => decide (t.wq = [0x00000041] ∧ t.overrun = false)) = true ∧
    stepGives { base with overrun := true } (fun _ => true) = false := by decide

/-- V-D5: a push into a full `WQ` sets `overrun` and leaves the queue. -/
theorem test_push_full (w : Word) :
    step { due (.pushWrite w) with wq := List.replicate Config.wqDepth 0 } =
      .next { base with wq := List.replicate Config.wqDepth 0, overrun := true, turns := ⟨[], 0⟩ } := by
  rw [step_of_environmentMoves ⟨rfl, rfl⟩]
  exact congrArg _ (pushWriteMove_full rfl (List.length_replicate.ge))

/-- R128, R129: the master is not released before the bus logic is armed, and pushes nothing before its release. -/
theorem test_startup_order :
    stepGives { due .releaseMaster with startup := ⟨false, true, false⟩ }
      (fun t => decide (t.startup.masterReleased = false)) = true ∧
    stepGives { due (.pushRead 0) with startup := ⟨true, true, false⟩ } (fun t => decide (t.rq = [])) = true := by
  decide

/-! ## Witnesses: for every obligation with hypotheses, states and operands that meet them, one for each clause -/

theorem witness_DecodeEncodeRoundTrip :
    (Instr.wrLedctlIgnore 250).wellFormed = true ∧ (Instr.wrLedctlIgnore 253).wellFormed = true ∧
    (Instr.wrLedctlSelect 0).wellFormed = true ∧ (Instr.wrLedctlSelect 249).wellFormed = true ∧
    (Instr.wrUnmapped 0x01 0xFF).wellFormed = true ∧ (Instr.rdUnmapped 0xFF).wellFormed = true ∧
    Instr.rdFdata.wellFormed = true := by decide

theorem witness_WriteWordsFollowTheOperationMap :
    wreqAddress 0x00000041 = 0x00 ∧ wreqAddress 0x000002FF = 0x02 ∧ wreqAddress 0x00000842 = 0x08 ∧
    wreqAddress 0x00000A00 = 0x0A ∧
    (wreqAddress 0x000080FE = 0x80 ∧ (wreqData 0x000080FE).toNat = 254) ∧
    (wreqAddress 0x000080FF = 0x80 ∧ (wreqData 0x000080FF).toNat = 255) ∧
    (wreqAddress 0x000080FA = 0x80 ∧ (wreqData 0x000080FA).toNat = 250) ∧
    (wreqAddress 0x000080FD = 0x80 ∧ (wreqData 0x000080FD).toNat = 253) ∧
    (wreqAddress 0x000080F9 = 0x80 ∧ (wreqData 0x000080F9).toNat = 249) ∧
    wreqAddress 0x00008210 = 0x82 ∧ wreqAddress 0x00008420 = 0x84 ∧ wreqAddress 0x00008630 = 0x86 ∧
    wreqAddress 0x00009055 = 0x90 ∧ wreqAddress 0x000092FE = 0x92 ∧ wreqAddress 0x000094FF = 0x94 ∧
    wreqAddress 0x000096AF = 0x96 ∧ wreqAddress 0x000081FF ∉ mappedAddresses := by decide

theorem witness_ReadWordsFollowTheOperationMap :
    rreqAddress 0x00 = 0x00 ∧ rreqAddress 0x02 = 0x02 ∧ rreqAddress 0x08 = 0x08 ∧ rreqAddress 0x0A = 0x0A ∧
    rreqAddress 0xFFFFFF80 = 0x80 ∧ rreqAddress 0x82 = 0x82 ∧ rreqAddress 0x84 = 0x84 ∧ rreqAddress 0x86 = 0x86 ∧
    rreqAddress 0x90 = 0x90 ∧ rreqAddress 0x92 = 0x92 ∧ rreqAddress 0x94 = 0x94 ∧ rreqAddress 0x96 = 0x96 ∧
    rreqAddress 0xFF ∉ mappedAddresses := by decide

/-- `base` moves the dispatcher, with or without requests in its queues. -/
theorem base_moves (wq rq : List Word) : ({ base with wq := wq, rq := rq } : State).dispatcherMoves := ⟨rfl, rfl⟩

/-- `s` with `n` dispatcher turns due. -/
def dispatcherDue (n : Nat) (s : State) : State := { s with turns := ⟨List.replicate n .dispatcher, 0⟩ }

theorem dispatcherDue_moves (n : Nat) (s : State) (h : s.overrun = false) :
    (dispatcherDue n s).dispatcherMovesFor n := by
  induction n with
  | zero => exact ⟨h, nofun⟩
  | succ n ih => exact State.dispatcherMovesFor_succ.mpr ⟨⟨h, rfl⟩, ih⟩

theorem witness_StepRunsTheDecodedRequest :
    (∃ s : State, s.dispatcherMoves ∧ s.phase = .idle ∧ s.wq = [0x00009211] ∧ s.rq = [0x00000092]) ∧
    (∃ s : State, s.dispatcherMoves ∧ s.phase = .idle ∧ s.wq = [] ∧ s.rq = [0x00000092]) ∧
    (∃ s : State, s.dispatcherMoves ∧ s.phase = .idle ∧ s.wq = [] ∧ s.rq = []) ∧
    ∃ s : State, s.dispatcherMoves ∧ s.turns.listed = [.dispatcher, .environment .popResponse] :=
  ⟨⟨_, base_moves [0x00009211] [0x00000092], rfl, rfl, rfl⟩, ⟨_, base_moves [] [0x00000092], rfl, rfl, rfl⟩,
    ⟨_, base_moves [] [], rfl, rfl, rfl⟩, { base with turns := ⟨[.dispatcher, .environment .popResponse], 0⟩ }, ⟨rfl, rfl⟩, rfl⟩

theorem witness_NothingIsPoppedWhileARequestIsInService :
    (∃ s : State, s.phase ≠ .idle ∧ s.dispatcherMoves) ∧
    ∃ s : State, s.phase ≠ .idle ∧ s.environmentMoves (.pushWrite 0x00000041) :=
  ⟨⟨{ base with phase := .latchEmit 0 }, by decide, rfl, rfl⟩,
    { due (.pushWrite 0x00000041) with phase := .uartTx .u1 0x42 }, by decide, rfl, rfl⟩

theorem witness_ReadsArePoppedOnlyWhenNoWriteIsPending :
    ∃ s t : State, step s = .next t ∧ t.rq.length < s.rq.length :=
  ⟨{ base with rq := [0x00000092] }, _, rfl, by decide⟩

/-- S9: two writes pending and one read. -/
theorem witness_PendingWritesAreServicedBeforeReads :
    ∃ s : State, s.dispatcherMovesFor s.wq.length ∧ s.phase = .idle ∧
      s.wq = [0x00009211, 0x000080FE] ∧ s.rq = [0x00000092] ∧
      ∀ w ∈ s.wq, wreqAddress w ≠ 0x00 ∧ wreqAddress w ≠ 0x08 ∧ ¬(wreqAddress w = 0x80 ∧ wreqData w = 0xFF) :=
  ⟨dispatcherDue 2 { base with wq := [0x00009211, 0x000080FE], rq := [0x00000092] }, dispatcherDue_moves 2 _ rfl, rfl, rfl, rfl, by
    intro w hw
    rcases List.mem_pair.mp hw with rfl | rfl <;> decide⟩

/-- A latch, a send to each transceiver and a select pending before a read, none of them lengthening the string. -/
theorem witness_AllPendingWritesAreServicedBeforeReads :
    ∃ (s : State) (c : Nat), s.dispatcherMovesFor (s.wq.length * (1 + c)) ∧ s.phase = .idle ∧
      1 ≤ s.pixelCount.val ∧ s.pixelCount.val ≤ c ∧ s.rq = [0x00000092] ∧
      s.wq = [0x000080FF, 0x00000041, 0x00000842, 0x00008000] ∧
      (∀ w ∈ s.wq, wreqAddress w = 0x80 → (wreqData w).toNat ≤ 249 → (wreqData w).toNat + 1 ≤ c) ∧
      s.ledq.length + c * (s.wq.filter fun w => decodeWrite w = .wrLedctlLatch).length ≤ Config.ledqDepth ∧
      s.uart0.txReady = true ∧ s.uart1.txReady = true := by
  refine ⟨dispatcherDue 8 { base with wq := [0x000080FF, 0x00000041, 0x00000842, 0x00008000], rq := [0x00000092] }, 1,
    dispatcherDue_moves 8 _ rfl, rfl, by decide, by decide, rfl, rfl, ?_, ?_, rfl, rfl⟩
  · intro w hw
    simp only [dispatcherDue, List.mem_cons, List.not_mem_nil, or_false] at hw
    rcases hw with rfl | rfl | rfl | rfl <;> decide
  · have e : (([0x000080FF, 0x00000041, 0x00000842, 0x00008000] : List Word).filter fun w =>
        decodeWrite w = .wrLedctlLatch) = [0x000080FF] := by decide
    exact e ▸ Nat.le_add_left 1 _

/-- Two polls with a write pending at each, and a read waiting. -/
theorem witness_ReadsWaitWhileWritesKeepComing :
    (∃ s t : State, (∀ k < 1, ∀ u : State, Host.Core.run Sys2Proof.core k s = .next u → u.dispatcherMoves →
        u.phase = .idle → u.wq ≠ []) ∧
      Host.Core.run Sys2Proof.core 1 s = .next t ∧ s.rq = [0x00000092] ∧ ∀ w, s.phase ≠ .respPush w) ∧
    ∃ (s : State) (ws : Nat → Word), s.overrun = false ∧ s.phase = .idle ∧ s.wq = [] ∧ s.rq = [0x00000092] ∧
      s.startup.masterReleased = true ∧
      ∀ k < 2, s.turnAt (2 * k) = .environment (.pushWrite (ws k)) ∧ s.turnAt (2 * k + 1) = .dispatcher ∧
        wreqAddress (ws k) ≠ 0x00 ∧ wreqAddress (ws k) ≠ 0x08 ∧
        ¬(wreqAddress (ws k) = 0x80 ∧ wreqData (ws k) = 0xFF) := by
  refine ⟨⟨{ base with wq := [0x00009211], rq := [0x00000092] }, _, ?_, rfl, rfl, nofun⟩,
    { base with
      rq := [0x00000092]
      turns := ⟨[.environment (.pushWrite 0x00009211), .dispatcher, .environment (.pushWrite 0x00009211),
        .dispatcher], 0⟩ },
    fun _ => 0x00009211, rfl, rfl, rfl, rfl, rfl, ?_⟩
  · intro k hk u hu _ _
    obtain rfl : k = 0 := by omega
    cases hu
    nofun
  · intro k hk
    obtain rfl | rfl : k = 0 ∨ k = 1 := by omega
    all_goals exact ⟨rfl, rfl, by decide⟩

theorem witness_DispatcherIsScheduledAgainAndAgain :
    ∃ s : State, s.overrun = false ∧ s.nextTurn = .environment .popResponse := ⟨due .popResponse, rfl, rfl⟩

theorem witness_PendingWriteIsServicedInTheEnd :
    ∃ (s : State) (w : Word) (ws : List Word), s.overrun = false ∧ s.phase = .idle ∧ s.wq = w :: ws ∧
      s.nextTurn = .environment (.pushWrite 0x000080FF) :=
  ⟨{ due (.pushWrite 0x000080FF) with wq := [0x00009211] }, 0x00009211, [], rfl, rfl, rfl, rfl⟩

/-- The agents in turn. -/
def roundRobin (k : Nat) : Turn := fairTurns.getD (k % 8) .dispatcher

theorem roundRobin_fair : fair roundRobin := by
  intro t ht n
  obtain ⟨j, hj, e⟩ := List.mem_iff_getElem.mp ht
  have hj : j < 8 := hj
  have hm : (n * 8 + j) % 8 = j := by omega
  refine ⟨n * 8 + j, by omega, ?_⟩
  rw [roundRobin, hm, ← e]
  exact (List.getElem_eq_getD _).symm

/-- A response and a latch held by a full queue, and a master not yet released. -/
theorem witness_FairAgentsEndEveryWaitForThem :
    (∃ (f : Nat → Turn) (s : State), fair f ∧ s.overrun = false ∧ s.queueInv ∧ s.phase = .respPush 0x00000009 ∧
      s.rsp.length = Config.rspDepth) ∧
    (∃ (f : Nat → Turn) (s : State), fair f ∧ s.overrun = false ∧ s.queueInv ∧ s.phase = .latchEmit 0 ∧
      s.ledq.length = Config.ledqDepth) ∧
    ∃ (f : Nat → Turn) (s : State), fair f ∧ s.overrun = false ∧ s.queueInv ∧ s.startup.masterReleased = false :=
  ⟨⟨roundRobin, { base with phase := .respPush 0x00000009, rsp := List.replicate Config.rspDepth 0 }, roundRobin_fair,
      rfl, by simp [State.queueInv, base], rfl, by simp⟩,
    ⟨roundRobin, { base with phase := .latchEmit 0, ledq := List.replicate Config.ledqDepth 0 }, roundRobin_fair,
      rfl, by simp [State.queueInv, base], rfl, by simp⟩,
    roundRobin, { base with startup := ⟨false, false, false⟩ }, roundRobin_fair, rfl, by simp [State.queueInv, base],
    rfl⟩

theorem witness_QueuesAreFirstInFirstOut :
    (∃ s t : State, step s = .next t ∧ s.wq = 0x00009211 :: t.wq) ∧
    (∃ s t : State, step s = .next t ∧ s.rq = 0x00000092 :: t.rq) ∧
    (∃ s t : State, step s = .next t ∧ s.rsp = 0x00000007 :: t.rsp) ∧
    ∃ s t : State, step s = .next t ∧ s.ledq = 0x10203000 :: t.ledq :=
  ⟨⟨{ base with wq := [0x00009211] }, _, rfl, rfl⟩, ⟨{ base with rq := [0x00000092] }, _, rfl, rfl⟩,
    ⟨{ due .popResponse with rsp := [0x00000007] }, _, rfl, rfl⟩,
    ⟨{ due .ledDriverPop with ledq := [0x10203000] }, _, rfl, rfl⟩⟩

theorem witness_OneResponsePerRead :
    ∃ s t : State, s.dispatcherMoves ∧ step s = .next t ∧ t.rq.length < s.rq.length :=
  ⟨{ base with rq := [0x00000092] }, _, ⟨rfl, rfl⟩, rfl, by decide⟩

theorem witness_PendingReadsAreAllAnswered :
    ∃ s : State, s.dispatcherMovesFor (2 * s.rq.length) ∧ s.phase = .idle ∧ s.wq = [] ∧ s.rq = [0x00000092] ∧
      s.rsp.length + s.rq.length ≤ Config.rspDepth :=
  ⟨dispatcherDue 2 { base with rq := [0x00000092] }, dispatcherDue_moves 2 _ rfl, rfl, rfl, rfl, Nat.le_add_left 1 _⟩

theorem witness_ResponsePushHoldsUntilThereIsRoom :
    (∃ s : State, s.dispatcherMoves ∧ s.phase = .respPush 0x00000009 ∧ s.rsp.length < Config.rspDepth) ∧
    ∃ s : State, s.dispatcherMoves ∧ s.phase = .respPush 0x00000009 ∧ Config.rspDepth ≤ s.rsp.length :=
  ⟨⟨{ base with phase := .respPush 0x00000009 }, ⟨rfl, rfl⟩, rfl, Nat.succ_pos _⟩,
    { base with phase := .respPush 0x00000009, rsp := List.replicate Config.rspDepth 0 }, ⟨rfl, rfl⟩, rfl,
    by simp⟩

theorem witness_WriteToUnmappedAddressIsDropped :
    ∃ (s : State) (w : Word) (ws : List Word), s.dispatcherMoves ∧ s.phase = .idle ∧ s.wq = w :: ws ∧
      wreqAddress w ∉ mappedAddresses :=
  ⟨_, 0x000081FF, [], base_moves [0x000081FF] [], rfl, rfl, by decide⟩

theorem witness_ReadOfUnmappedAddressAnswersZero :
    ∃ (s : State) (q : Word) (qs : List Word), s.dispatcherMoves ∧ s.phase = .idle ∧ s.wq = [] ∧ s.rq = q :: qs ∧
      rreqAddress q ∉ mappedAddresses :=
  ⟨_, 0x00000091, [], base_moves [] [0x00000091], rfl, rfl, rfl, by decide⟩

/-- The word clause at both ends of its range, and each length clause at the value where they meet. -/
theorem witness_SelectSetsIndexAndGrowsLength :
    (wreqAddress 0x000080F9 = 0x80 ∧ (wreqData 0x000080F9).toNat ≤ 249) ∧
    (wreqAddress 0x00008000 = 0x80 ∧ (wreqData 0x00008000).toNat ≤ 249) ∧
    (∃ (v : Byte) (s : State), v.toNat ≤ 249 ∧ s.pixelCount.val = v.toNat) ∧
    (∃ (v : Byte) (s : State), v.toNat ≤ 249 ∧ v.toNat + 1 = s.pixelCount.val) ∧
    ∃ (v : Byte) (s : State), v.toNat = 249 ∧ s.pixelCount.val ≤ v.toNat :=
  ⟨by decide, by decide, ⟨6, atLed 6 2, by decide, by decide⟩, ⟨5, atLed 6 2, by decide, by decide⟩,
    249, atLed 1 0, by decide, by decide⟩

theorem witness_OutOfRangeSelectIsIgnored :
    (wreqAddress 0x000080FA = 0x80 ∧ (wreqData 0x000080FA).toNat = 250) ∧
    ∃ (s : State) (w : Word) (ws : List Word), s.dispatcherMoves ∧ s.phase = .idle ∧ s.wq = w :: ws ∧
      wreqAddress w = 0x80 ∧ 250 ≤ (wreqData w).toNat ∧ (wreqData w).toNat ≤ 253 :=
  ⟨by decide, _, 0x000080FD, [], base_moves [0x000080FD] [], rfl, rfl, by decide, by decide, by decide⟩

theorem witness_LedResetCommandResetsLengthAndIndexOnly :
    (∃ w, wreqAddress w = 0x80 ∧ wreqData w = 254) ∧
    ∃ (i : Instr) (s t : State), exec i s = .next t ∧ t.pixelCount.val < s.pixelCount.val :=
  ⟨⟨0x000080FE, by decide⟩, .wrLedctlReset, atLed 250 249, _, rfl, by decide⟩

theorem witness_LatchEmitsTheLogicalLengthInOrder :
    ∃ (s : State) (w : Word) (ws : List Word), s.dispatcherMovesFor (1 + s.pixelCount.val) ∧ s.phase = .idle ∧
      s.wq = w :: ws ∧ wreqAddress w = 0x80 ∧ wreqData w = 255 ∧ 1 ≤ s.pixelCount.val ∧
      s.ledq.length + s.pixelCount.val ≤ Config.ledqDepth :=
  ⟨dispatcherDue 2 { base with wq := [0x000080FF] }, 0x000080FF, [], dispatcherDue_moves 2 _ rfl, rfl, rfl, by decide, by decide, by decide,
    Nat.le_add_left 1 _⟩

theorem witness_LatchEmissionStep :
    (∃ (s : State) (i : Fin 250), s.dispatcherMoves ∧ s.phase = .latchEmit i ∧ s.ledq.length < Config.ledqDepth ∧
      i.val + 1 < s.pixelCount.val) ∧
    (∃ (s : State) (i : Fin 250), s.dispatcherMoves ∧ s.phase = .latchEmit i ∧ s.ledq.length < Config.ledqDepth ∧
      i.val = 249 ∧ s.pixelCount.val = i.val + 1) ∧
    ∃ (s : State) (i : Fin 250), s.dispatcherMoves ∧ s.phase = .latchEmit i ∧
      Config.ledqDepth ≤ s.ledq.length :=
  ⟨⟨{ atLed 3 0 with phase := .latchEmit 1 }, 1, ⟨rfl, rfl⟩, rfl, Nat.succ_pos _, by decide⟩,
    ⟨{ atLed 250 0 with phase := .latchEmit 249 }, 249, ⟨rfl, rfl⟩, rfl, Nat.succ_pos _, rfl, rfl⟩,
    { base with phase := .latchEmit 0, ledq := List.replicate Config.ledqDepth 0 }, 0, ⟨rfl, rfl⟩, rfl,
    by simp⟩

theorem witness_LatchKeepsIndexOrderUnderBackPressure :
    ∃ (s t : State) (i : Fin 250) (before popped : List Word), i.val < s.pixelCount.val ∧
      s.phase = .latchEmit i ∧ popped ++ s.ledq = before ++ s.ledWords i.val ∧ step s = .next t :=
  ⟨{ atLed 3 0 with phase := .latchEmit 1, ledq := [0x00000000] }, _, 1, [0x10203000], [0x10203000], by decide, rfl,
    by decide, rfl⟩

theorem witness_ReadOfLedControlAnswersSelectedIndex :
    (∃ q, rreqAddress q = 0x80) ∧ ∃ i : Instr, i.channel = .read := ⟨⟨0xFFFFFF80, by decide⟩, .rdLedctl, rfl⟩

theorem witness_ColourWritesStoreOneChannel : wreqAddress 0x00008210 = 0x82 ∧ wreqAddress 0x00008420 = 0x84 ∧
    wreqAddress 0x00008630 = 0x86 ∧ ∃ (s : State) (j : Fin 250), j ≠ s.selectedIndex :=
  ⟨by decide, by decide, by decide, coloured, 4, by decide⟩

theorem witness_ColourReadsAnswerTheSelectedPixel :
    rreqAddress 0x82 = 0x82 ∧ rreqAddress 0x84 = 0x84 ∧ rreqAddress 0x86 = 0x86 := by decide

theorem witness_LedRegistersReadBackWhatWasWritten : ∃ v : Byte, v.toNat ≤ 249 := ⟨249, by decide⟩

theorem witness_PixelCountChangesOnlyBySelectOrReset :
    (∃ s t : State, step s = .next t ∧ s.wq = [0x000080F9] ∧ t.pixelCount ≠ s.pixelCount) ∧
    ∃ s t : State, step s = .next t ∧ s.wq = [0x000080FE] ∧ t.pixelCount ≠ s.pixelCount :=
  ⟨⟨{ base with wq := [0x000080F9] }, _, rfl, rfl, by decide⟩,
    { atLed 250 249 with wq := [0x000080FE] }, _, rfl, rfl, by decide⟩

theorem witness_PixelCountCannotBeRead : ∃ i : Instr, i.channel = .read := ⟨.rdLedctl, rfl⟩

theorem witness_PixelsChangeOnlyByColourWrites :
    ∃ (s t : State) (j : Fin 250), step s = .next t ∧ t.buf[j] ≠ s.buf[j] :=
  ⟨{ base with wq := [0x00008210] }, _, 0, rfl, by decide⟩

theorem witness_CursorFieldWrites :
    wreqAddress 0x000092FE = 0x92 ∧ wreqAddress 0x000094FF = 0x94 ∧ wreqAddress 0x000096AF = 0x96 := by decide

theorem witness_CursorFieldReads :
    rreqAddress 0x92 = 0x92 ∧ rreqAddress 0x94 = 0x94 ∧ rreqAddress 0x96 = 0x96 := by decide

theorem witness_FlashReadAnswersAndAdvances :
    (∃ s : State, s.pointer.toNat < 2 ^ 20 ∧ s.pointer = 0x000FFFFF) ∧
    (∃ s : State, 2 ^ 20 ≤ s.pointer.toNat ∧ s.pointer = 0x00100000) ∧
    ∃ s : State, 2 ^ 20 ≤ s.pointer.toNat ∧ s.pointer = 0xFFFFFFFF :=
  ⟨⟨atPointer 0x000FFFFF, by decide, rfl⟩, ⟨atPointer 0x00100000, by decide, rfl⟩,
    atPointer 0xFFFFFFFF, by decide, rfl⟩

theorem witness_FlashDataWriteIsDropped :
    ∃ (s : State) (w : Word) (ws : List Word), s.dispatcherMoves ∧ s.phase = .idle ∧ s.wq = w :: ws ∧
      wreqAddress w = 0x90 :=
  ⟨_, 0x00009055, [], base_moves [0x00009055] [], rfl, rfl, by decide⟩

theorem witness_ConsecutiveFlashReadsReturnSuccessiveBytes :
    ∃ (s : State) (reads rest : List Word), s.dispatcherMovesFor (2 * reads.length) ∧ s.phase = .idle ∧ s.wq = [] ∧
      s.rq = reads ++ rest ∧ reads ≠ [] ∧ (∀ q ∈ reads, rreqAddress q = 0x90) ∧
      s.rsp.length + reads.length ≤ Config.rspDepth ∧ s.pointer.toNat + reads.length ≤ 2 ^ 20 :=
  ⟨dispatcherDue 2 { atPointer 0x000FFFFF with rq := [0x00000090, 0x00000092] }, [0x00000090], [0x00000092],
    dispatcherDue_moves 2 _ rfl, rfl, rfl, rfl,
    by decide, by intro q hq; rw [List.mem_singleton.mp hq]; decide, Nat.le_add_left 1 _, by decide⟩

theorem witness_CursorMovesOnlyAsTheMapSays :
    (∃ s t : State, step s = .next t ∧ s.wq = [0x000092FE] ∧ t.pointer ≠ s.pointer) ∧
    (∃ s t : State, step s = .next t ∧ s.wq = [0x000094FF] ∧ t.pointer ≠ s.pointer) ∧
    (∃ s t : State, step s = .next t ∧ s.wq = [0x000096AF] ∧ t.pointer ≠ s.pointer) ∧
    ∃ s t : State, step s = .next t ∧ s.rq = [0x00000090] ∧ t.pointer ≠ s.pointer :=
  ⟨⟨{ base with wq := [0x000092FE] }, _, rfl, rfl, by decide⟩, ⟨{ base with wq := [0x000094FF] }, _, rfl, rfl, by decide⟩,
    ⟨{ base with wq := [0x000096AF] }, _, rfl, rfl, by decide⟩, { base with rq := [0x00000090] }, _, rfl, rfl,
    by decide⟩

theorem witness_CursorUpperBitsChangeOnlyByCarry :
    ∃ s t : State, step s = .next t ∧ t.pointer.extractLsb' 20 12 ≠ s.pointer.extractLsb' 20 12 :=
  ⟨{ atPointer 0x000FFFFF with rq := [0x00000090] }, _, rfl, by decide⟩

theorem witness_SerialWriteForwardsTheByte :
    (∃ s : State, s.dispatcherMoves ∧ s.phase = .uartTx .u0 0x41 ∧ s.uart0.txReady = true) ∧
    (∃ s : State, s.dispatcherMoves ∧ s.phase = .uartTx .u0 0x41 ∧ s.uart0.txReady = false) ∧
    (∃ s : State, s.dispatcherMoves ∧ s.phase = .uartTx .u1 0x42 ∧ s.uart1.txReady = true) ∧
    ∃ s : State, s.dispatcherMoves ∧ s.phase = .uartTx .u1 0x42 ∧ s.uart1.txReady = false :=
  ⟨⟨{ base with phase := .uartTx .u0 0x41 }, ⟨rfl, rfl⟩, rfl, rfl⟩,
    ⟨{ base with phase := .uartTx .u0 0x41, uart0 := ⟨[], 0, [], false, 0⟩ }, ⟨rfl, rfl⟩, rfl, rfl⟩,
    ⟨{ base with phase := .uartTx .u1 0x42 }, ⟨rfl, rfl⟩, rfl, rfl⟩,
    { base with phase := .uartTx .u1 0x42, uart1 := ⟨[], 0, [], false, 0⟩ }, ⟨rfl, rfl⟩, rfl, rfl⟩

theorem witness_SerialReadConsumesTheOldestByte :
    (∃ (s : State) (b : Byte) (rest : List Byte), s.uart0.rx = b :: rest) ∧ (∃ s : State, s.uart0.rx = []) ∧
    (∃ (s : State) (b : Byte) (rest : List Byte), s.uart1.rx = b :: rest) ∧ ∃ s : State, s.uart1.rx = [] :=
  ⟨⟨{ base with uart0 := ⟨[0x68, 0x69], 0, [], true, 0⟩ }, _, _, rfl⟩, ⟨base, rfl⟩,
    ⟨{ base with uart1 := ⟨[0x0D], 0, [], true, 0⟩ }, _, _, rfl⟩, base, rfl⟩

theorem witness_SerialStatusWriteIsDropped :
    (∃ (s : State) (w : Word) (ws : List Word), s.dispatcherMoves ∧ s.phase = .idle ∧ s.wq = w :: ws ∧
      wreqAddress w = 0x02) ∧
    ∃ (s : State) (w : Word) (ws : List Word), s.dispatcherMoves ∧ s.phase = .idle ∧ s.wq = w :: ws ∧
      wreqAddress w = 0x0A :=
  ⟨⟨_, 0x000002FF, [], base_moves [0x000002FF] [], rfl, rfl, by decide⟩,
    _, 0x00000A00, [], base_moves [0x00000A00] [], rfl, rfl, by decide⟩

theorem witness_TransceiversAreIndependent (d : Byte) :
    Instr.wrU0Data d ∈ [Instr.wrU0Data d, .wrU0Stat d, .rdU0Data, .rdU0Stat] ∧
    Instr.rdU1Stat ∈ [Instr.wrU1Data d, .wrU1Stat d, .rdU1Data, .rdU1Stat] ∧
    (∃ s : State, s.dispatcherMoves ∧ s.phase = .uartTx .u0 d) ∧
    ∃ s : State, s.dispatcherMoves ∧ s.phase = .uartTx .u1 d :=
  ⟨by simp, by simp, ⟨{ base with phase := .uartTx .u0 d }, ⟨rfl, rfl⟩, rfl⟩,
    { base with phase := .uartTx .u1 d }, ⟨rfl, rfl⟩, rfl⟩

theorem witness_OtherReadsChangeNothing :
    ∃ i : Instr, i.channel = .read ∧ i ≠ .rdFdata ∧ i ≠ .rdU0Data ∧ i ≠ .rdU1Data := ⟨.rdUnmapped 0x91, by decide⟩

theorem witness_RepeatedWriteChangesNothingMore :
    ∃ i : Instr, i.channel = .write ∧ i ≠ .wrLedctlLatch ∧ ∀ d, i ≠ .wrU0Data d ∧ i ≠ .wrU1Data d :=
  ⟨.wrFaddr2 0xAF, rfl, nofun, fun _ => ⟨nofun, nofun⟩⟩

theorem witness_OnlyTheDispatcherChangesTheControllersState (m : Move) :
    ∃ s t : State, s.environmentMoves m ∧ step s = .next t := ⟨due m, _, ⟨rfl, rfl⟩, rfl⟩

theorem witness_ProducerPushesOrOverruns (w : Word) :
    (∃ s : State, s.startup.masterReleased = true ∧ s.environmentMoves (.pushWrite w) ∧
      s.wq.length < Config.wqDepth) ∧
    (∃ s : State, s.startup.masterReleased = true ∧ s.environmentMoves (.pushWrite w) ∧
      Config.wqDepth ≤ s.wq.length) ∧
    (∃ s : State, s.startup.masterReleased = true ∧ s.environmentMoves (.pushRead w) ∧
      s.rq.length < Config.rqDepth) ∧
    ∃ s : State, s.startup.masterReleased = true ∧ s.environmentMoves (.pushRead w) ∧
      Config.rqDepth ≤ s.rq.length :=
  ⟨⟨due (.pushWrite w), rfl, ⟨rfl, rfl⟩, Nat.succ_pos _⟩,
    ⟨{ due (.pushWrite w) with wq := List.replicate Config.wqDepth 0 }, rfl, ⟨rfl, rfl⟩, by simp⟩,
    ⟨due (.pushRead w), rfl, ⟨rfl, rfl⟩, Nat.succ_pos _⟩,
    { due (.pushRead w) with rq := List.replicate Config.rqDepth 0 }, rfl, ⟨rfl, rfl⟩, by simp⟩

theorem witness_CollaboratorsTakeTheirSteps (n : UartId) :
    (∃ s : State, s.environmentMoves .popResponse ∧ s.rsp = [0x00000007]) ∧
    (∃ s : State, s.environmentMoves .popResponse ∧ s.rsp = []) ∧
    (∃ s : State, s.environmentMoves .ledDriverPop ∧ s.ledq = [0x10203000]) ∧
    (∃ s : State, s.environmentMoves .ledDriverPop ∧ s.ledq = []) ∧
    (∃ s : State, s.environmentMoves (.uartReceive n 0x68)) ∧
    (∃ s : State, s.environmentMoves (.uartTransmit n) ∧ (s.uart n).tx = [0x41]) ∧
    (∃ s : State, s.environmentMoves (.uartTransmit n) ∧ (s.uart n).tx = []) ∧
    (∃ s : State, s.environmentMoves (.uartChange n 0x90 false 0x12)) ∧
    (∃ s : State, s.environmentMoves .armBus) ∧ (∃ s : State, s.environmentMoves .startClock) ∧
    (∃ s : State, s.environmentMoves .releaseMaster ∧ s.startup = ⟨true, true, false⟩) ∧
    (∃ s : State, s.environmentMoves .releaseMaster ∧ s.startup = ⟨false, true, false⟩) ∧
    ∃ s : State, s.environmentMoves .releaseMaster ∧ s.startup = ⟨true, false, false⟩ :=
  ⟨⟨{ due .popResponse with rsp := [0x00000007] }, ⟨rfl, rfl⟩, rfl⟩, ⟨due .popResponse, ⟨rfl, rfl⟩, rfl⟩,
    ⟨{ due .ledDriverPop with ledq := [0x10203000] }, ⟨rfl, rfl⟩, rfl⟩, ⟨due .ledDriverPop, ⟨rfl, rfl⟩, rfl⟩,
    ⟨due (.uartReceive n 0x68), rfl, rfl⟩,
    ⟨{ due (.uartTransmit n) with uart0 := ⟨[], 0, [0x41], true, 0⟩, uart1 := ⟨[], 0, [0x41], true, 0⟩ },
      ⟨rfl, rfl⟩, by cases n <;> rfl⟩,
    ⟨due (.uartTransmit n), ⟨rfl, rfl⟩, by cases n <;> rfl⟩, ⟨due (.uartChange n 0x90 false 0x12), rfl, rfl⟩,
    ⟨due .armBus, rfl, rfl⟩, ⟨due .startClock, rfl, rfl⟩,
    ⟨{ due .releaseMaster with startup := ⟨true, true, false⟩ }, ⟨rfl, rfl⟩, rfl⟩,
    ⟨{ due .releaseMaster with startup := ⟨false, true, false⟩ }, ⟨rfl, rfl⟩, rfl⟩,
    { due .releaseMaster with startup := ⟨true, false, false⟩ }, ⟨rfl, rfl⟩, rfl⟩

theorem witness_StepFaultsExactlyOnOverrun :
    (∃ s : State, s.overrun = true) ∧ ∃ s : State, s.overrun = false :=
  ⟨⟨{ base with overrun := true }, rfl⟩, base, rfl⟩

theorem witness_OverrunIsSetOnlyByAPushIntoAFullQueue :
    ∃ s t : State, step s = .next t ∧ t.overrun = true :=
  ⟨_, _, test_push_full 0x00000041, rfl⟩

theorem base_inv : base.inv := by
  refine ⟨⟨by decide, by decide, by simp [base]⟩, ⟨?_, ?_, ?_, ?_⟩, ⟨?_, ?_, ?_⟩, ?_⟩ <;>
    simp [base, State.startupInv]

theorem witness_StepKeepsTheInvariant : ∃ s t : State, s.inv ∧ step s = .next t := ⟨base, _, base_inv, rfl⟩

/-- The reset state itself before the release, and `base`, with its cursor moved, after it. -/
theorem witness_LaunchStateHoldsUntilRelease :
    (∃ s t : State, s.launchInv ∧ s.startup.masterReleased = false ∧ step s = .next t) ∧
    ∃ s t : State, s.launchInv ∧ s.startup.masterReleased = true ∧ s.pointer = 0x00000100 ∧ step s = .next t :=
  ⟨⟨{ State.reset with turns := ⟨[.environment .armBus], 0⟩ }, _,
      fun _ => ⟨rfl, rfl, rfl, rfl, rfl, rfl, rfl, rfl, rfl, rfl⟩, rfl, rfl⟩,
    atPointer 0x00000100, _, (by intro h; cases h), rfl, rfl, rfl⟩

end Sys2Proof.Tests
end

section
/-! The dispatcher's fairness (00_scope.md R4): it is scheduled again and again, and what waits for it is serviced. -/

namespace Sys2Proof.Machine

/-! ## What every move of the environment keeps -/

/-- No move changes the phase or the turns, and a pending write leaves `WQ` by the dispatcher alone (R20, R63). -/
theorem environmentMove_keeps (m : Move) (s : State) :
    (environmentMove m s).phase = s.phase ∧ (environmentMove m s).turns = s.turns ∧
      s.wq <+: (environmentMove m s).wq := by
  cases m with
  | pushWrite w => rcases pushWriteMove_cases w s with ⟨-, h⟩ | ⟨-, -, h⟩ | ⟨-, -, h⟩ <;> simp [environmentMove, h]
  | pushRead q => rcases pushReadMove_cases q s with ⟨-, h⟩ | ⟨-, -, h⟩ | ⟨-, -, h⟩ <;> simp [environmentMove, h]
  | releaseMaster => rcases releaseMasterMove_cases s with ⟨-, -, h⟩ | h <;> simp [environmentMove, h]
  | popResponse | ledDriverPop | armBus | startClock => exact ⟨rfl, rfl, List.prefix_rfl⟩
  | uartReceive n c => simp [environmentMove, uartReceiveMove]
  | uartTransmit n => simp [environmentMove, uartTransmitMove]
  | uartChange n status ready rxreg => simp [environmentMove, uartChangeMove]

/-! ## The poll of a pending write -/

/-- An idle dispatcher pops the write at the head of `WQ` and runs it (R62, R64). -/
theorem step_of_pending_write {s : State} {w : Word} {ws : List Word} (hd : s.dispatcherMoves)
    (hp : s.phase = .idle) (hw : s.wq = w :: ws) :
    step s = exec (decodeRequest .write w) { s.turnTaken with wq := ws } := by
  rw [step_of_dispatcherMoves hd]
  simp [dispatcherStep, poll, hp, hw, decodeRequest]

/-! ## The dispatcher's turn comes -/

/-- The induction along one list of turns: it ends at a dispatcher's turn in `l`, or else at the turns after `l`. -/
theorem Turns.induction_over_listed {P : Turns → Prop} (now : ∀ u, u.next = .dispatcher → P u)
    (later : ∀ u m, u.next = .environment m → P u.taken → P u) (l : List Turn) (n : Nat)
    (after : .dispatcher ∈ l ∨ P ⟨[], n⟩) : P ⟨l, n⟩ := by
  induction l with
  | nil => exact after.resolve_left List.not_mem_nil
  | cons t rest ih =>
    obtain ⟨hnext, htaken⟩ := Turns.next_taken_of_listed (u := ⟨t :: rest, n⟩) rfl
    cases t with
    | dispatcher => exact now _ hnext
    | environment m => exact later _ m hnext (htaken ▸ ih (by simpa using after))

/-- Induction on the turns up to the dispatcher's next one: the listed turns end, and the round after them closes with a
turn of the dispatcher (R4, log entry 1). -/
theorem Turns.induction_to_dispatcher {P : Turns → Prop} (now : ∀ u, u.next = .dispatcher → P u)
    (later : ∀ u m, u.next = .environment m → P u.taken → P u) (u : Turns) : P u := by
  refine Turns.induction_over_listed now later u.listed u.rounds (.inr ?_)
  obtain ⟨hnext, htaken⟩ := Turns.next_taken_of_none (u := ⟨[], u.rounds⟩) rfl
  cases hr : Config.round u.rounds with
  | nil => exact now _ (by simp [hnext, roundTurns, hr])
  | cons m ms =>
    refine later _ m (by simp [hnext, roundTurns, hr]) ?_
    rw [htaken]
    exact Turns.induction_over_listed now later _ _ (.inl (by simp [roundTurns, hr]))

/-- The dispatcher is due after some number of turns (R4). -/
theorem Turns.exists_takenFor_next_dispatcher (u : Turns) : ∃ k, (u.takenFor k).next = .dispatcher := by
  induction u using Turns.induction_to_dispatcher with
  | now u hnext => exact ⟨0, hnext⟩
  | later u m _ ih =>
    obtain ⟨k, hk⟩ := ih
    exact ⟨k + 1, hk⟩

/-- A run comes to a state in which the dispatcher moves or an overrun is recorded, and up to there only the environment
steps, so `phase` is kept and `WQ` only grows at its newest end. -/
theorem exists_run_to_dispatcher (s : State) (ho : s.overrun = false) :
    ∃ k t, Host.Core.run Sys2Proof.core k s = .next t ∧ (t.overrun = true ∨ t.dispatcherMoves) ∧
      t.phase = s.phase ∧ s.wq <+: t.wq := by
  induction hu : s.turns using Turns.induction_to_dispatcher generalizing s with
  | now u hnext => exact ⟨0, s, rfl, .inr ⟨ho, (congrArg Turns.next hu).trans hnext⟩, rfl, List.prefix_rfl⟩
  | later u m hnext ih =>
    have hstep := step_of_environmentMoves (s := s) (m := m) ⟨ho, (congrArg Turns.next hu).trans hnext⟩
    obtain ⟨hphase, hturns, hwq⟩ := environmentMove_keeps m s.turnTaken
    generalize environmentMove m s.turnTaken = s' at *
    cases ho' : s'.overrun with
    | true => exact ⟨1, s', run_succ 0 hstep, .inl ho', hphase, hwq⟩
    | false =>
      obtain ⟨k, t, hrun, hend, hp, hw⟩ := ih s' ho' (by rw [hturns, State.turnTaken_turns, hu])
      exact ⟨k + 1, t, (run_succ k hstep).trans hrun, hend, hp.trans hphase, hwq.trans hw⟩

/-! ## The two statements -/

/-- Settles O57, by induction on the turns up to the dispatcher's next one. -/
theorem dispatcherIsScheduledAgainAndAgain : Obligations.DispatcherIsScheduledAgainAndAgain := by
  unfold Obligations.DispatcherIsScheduledAgainAndAgain
  refine ⟨fun s n => ?_, fun s ho => ?_⟩
  · obtain ⟨k, hk⟩ := (s.turns.takenFor n).exists_takenFor_next_dispatcher
    exact ⟨n + k, Nat.le_add_right n k, by rw [State.turnAt, ← Turns.takenFor_add, hk]⟩
  · obtain ⟨k, t, hrun, hend, -⟩ := exists_run_to_dispatcher s ho
    exact ⟨k, t, hrun, hend⟩

/-- Settles O58: up to the dispatcher's next turn the environment leaves the phase and the head of `WQ` as they are. -/
theorem pendingWriteIsServicedInTheEnd : Obligations.PendingWriteIsServicedInTheEnd := by
  unfold Obligations.PendingWriteIsServicedInTheEnd
  intro s w ws ho hp hw
  obtain ⟨k, t, hrun, hend, htp, more, hmore⟩ := exists_run_to_dispatcher s ho
  have hidle : t.phase = .idle := htp.trans hp
  have htw : t.wq = w :: (ws ++ more) := by rw [← hmore, hw, List.cons_append]
  exact ⟨k, t, hrun, hend.imp_right fun hd => ⟨more, hd, hidle, htw, step_of_pending_write hd hidle htw⟩⟩

end Sys2Proof.Machine
end

section
/-! What the environment's moves and the serviced requests do to the state, said once each as a relation between the
states before and after. -/

namespace Sys2Proof

/-! ## The address of a decoded target -/

/-- The bus address of a mapped target (R38). -/
def Target.address : Target → Option Byte
  | .u0data => some 0x00
  | .u0stat => some 0x02
  | .u1data => some 0x08
  | .u1stat => some 0x0A
  | .ledctl => some 0x80
  | .ledb => some 0x82
  | .ledr => some 0x84
  | .ledg => some 0x86
  | .fdata => some 0x90
  | .faddr0 => some 0x92
  | .faddr1 => some 0x94
  | .faddr2 => some 0x96
  | .unmapped => none

/-- The address decoder answers a mapped target for its own address alone (R54, R68). -/
theorem eq_of_address_decodeAddress {a b : Byte} : (decodeAddress a).address = some b → a = b := by
  unfold decodeAddress
  iterate 12
    refine iteInduction (motive := fun t : Target => t.address = some b → a = b)
      (fun ha hb => ha.trans (Option.some.inj hb)) fun _ => ?_
  nofun

namespace Machine

/-! ## Writes -/

/-- Everything the write request `w` can make of the state `s` (R64): a byte to send, one of the three commands of
`LEDCTL`, a colour channel, a field of the cursor, or nothing. -/
inductive WriteEffect (w : Word) (s : State) : State → Prop
  | sendU0 (ha : wreqAddress w = 0x00) : WriteEffect w s { s with phase := .uartTx .u0 (wreqData w) }
  | sendU1 (ha : wreqAddress w = 0x08) : WriteEffect w s { s with phase := .uartTx .u1 (wreqData w) }
  | select (i : Fin 250) (c : Fin 251) (ha : wreqAddress w = 0x80) (hi : i.val = (wreqData w).toNat)
      (hc : c.val = max s.pixelCount.val (i.val + 1)) :
      WriteEffect w s { s with selectedIndex := i, pixelCount := c }
  | ledReset (ha : wreqAddress w = 0x80) (hv : (wreqData w).toNat = 254) :
      WriteEffect w s { s with pixelCount := 1, selectedIndex := 0 }
  | latch (ha : wreqAddress w = 0x80) (hv : (wreqData w).toNat = 255) :
      WriteEffect w s { s with phase := .latchEmit 0 }
  | blue (ha : wreqAddress w = 0x82) :
      WriteEffect w s (s.setSelectedPixel { s.selectedPixel with b := wreqData w })
  | red (ha : wreqAddress w = 0x84) :
      WriteEffect w s (s.setSelectedPixel { s.selectedPixel with r := wreqData w })
  | green (ha : wreqAddress w = 0x86) :
      WriteEffect w s (s.setSelectedPixel { s.selectedPixel with g := wreqData w })
  | faddr0 (ha : wreqAddress w = 0x92) :
      WriteEffect w s { s with pointer := mergeByte0 (wreqData w) s.pointer }
  | faddr1 (ha : wreqAddress w = 0x94) :
      WriteEffect w s { s with pointer := mergeByte1 (wreqData w) s.pointer }
  | faddr2 (ha : wreqAddress w = 0x96) :
      WriteEffect w s { s with pointer := mergeNibble2 (wreqData w) s.pointer }
  | dropped : WriteEffect w s s

/-- A write to `LEDCTL` has one of its effects, by the value written (R56, R76 to R79). -/
theorem writeEffect_of_exec_decodeLedctl {w : Word} {s t : State} (ha : wreqAddress w = 0x80)
    (h : exec (decodeLedctl (wreqData w)) s = .next t) : WriteEffect w s t := by
  have hlt := (wreqData w).isLt
  obtain hv | ⟨hv, hv'⟩ | hv | hv : (wreqData w).toNat ≤ 249 ∨
      (250 ≤ (wreqData w).toNat ∧ (wreqData w).toNat ≤ 253) ∨ (wreqData w).toNat = 254 ∨
      (wreqData w).toNat = 255 := by omega
  · have hv : (wreqData w).toNat < 250 := Nat.lt_succ_of_le hv
    rw [decodeLedctl_select (Nat.le_of_lt_succ hv), exec, execWrLedctlSelect, dif_pos hv] at h
    cases h
    exact .select ⟨_, hv⟩ _ ha rfl (by split <;> simp only <;> omega)
  · rw [decodeLedctl_ignore hv hv'] at h
    cases h
    exact .dropped
  · rw [decodeLedctl_reset hv] at h
    cases h
    exact .ledReset ha hv
  · rw [decodeLedctl_latch hv] at h
    cases h
    exact .latch ha hv

/-- A serviced write has one of its effects. -/
theorem writeEffect_of_exec {w : Word} {s t : State} (h : exec (decodeWrite w) s = .next t) : WriteEffect w s t := by
  have ha {b : Byte} := eq_of_address_decodeAddress (a := wreqAddress w) (b := b)
  unfold decodeWrite decodeWriteAt at h
  cases hd : decodeAddress (wreqAddress w) <;> simp only [hd] at h ha
  case ledctl => exact writeEffect_of_exec_decodeLedctl (ha rfl) h
  all_goals cases h
  case u0data => exact .sendU0 (ha rfl)
  case u1data => exact .sendU1 (ha rfl)
  case ledb => exact .blue (ha rfl)
  case ledr => exact .red (ha rfl)
  case ledg => exact .green (ha rfl)
  case faddr0 => exact .faddr0 (ha rfl)
  case faddr1 => exact .faddr1 (ha rfl)
  case faddr2 => exact .faddr2 (ha rfl)
  all_goals exact .dropped

/-- No write touches a queue, the fault record, the startup progress or the turns (R20, R62). -/
theorem WriteEffect.frame {w : Word} {s t : State} (h : WriteEffect w s t) :
    t.wq = s.wq ∧ t.rq = s.rq ∧ t.rsp = s.rsp ∧ t.ledq = s.ledq ∧ t.overrun = s.overrun ∧
      t.startup = s.startup ∧ t.turns = s.turns := by
  cases h <;> simp

/-! ## Reads -/

/-- A serviced read leaves the multiplexer's state, with its value to be pushed (R65, R67). -/
theorem eq_respond_of_exec_decodeRead {q : Word} {s t : State} (h : exec (decodeRead q) s = .next t) :
    t = respond (readMux (decodeAddress (rreqAddress q)) s).1 (readMux (decodeAddress (rreqAddress q)) s).2 := by
  rw [exec_decodeRead] at h
  cases h
  rfl

/-! ## The environment -/

/-- Everything the move `m` of the environment can make of the state `s` (R122). -/
inductive MoveEffect (m : Move) (s : State) : State → Prop
  | held : MoveEffect m s s
  | pushWrite (w : Word) (hroom : s.wq.length < Config.wqDepth) : MoveEffect m s { s with wq := s.wq ++ [w] }
  | pushRead (q : Word) (hroom : s.rq.length < Config.rqDepth) : MoveEffect m s { s with rq := s.rq ++ [q] }
  | overrunWrite (w : Word) (hm : m = .pushWrite w) (hreleased : s.startup.masterReleased = true)
      (hfull : Config.wqDepth ≤ s.wq.length) : MoveEffect m s (raiseOverrun s)
  | overrunRead (q : Word) (hm : m = .pushRead q) (hreleased : s.startup.masterReleased = true)
      (hfull : Config.rqDepth ≤ s.rq.length) : MoveEffect m s (raiseOverrun s)
  | popResponse : MoveEffect m s { s with rsp := s.rsp.tail }
  | popLed : MoveEffect m s { s with ledq := s.ledq.tail }
  | uart (n : UartId) (u : Uart) : MoveEffect m s (s.setUart n u)
  | armBus : MoveEffect m s { s with startup := { s.startup with busArmed := true } }
  | startClock : MoveEffect m s { s with startup := { s.startup with clockStarted := true } }
  | release (hbus : s.startup.busArmed = true) (hclock : s.startup.clockStarted = true) :
      MoveEffect m s { s with startup := { s.startup with masterReleased := true } }

theorem environmentMove_effect (m : Move) (s : State) : MoveEffect m s (environmentMove m s) := by
  cases m with
  | pushWrite w =>
    rcases pushWriteMove_cases w s with ⟨-, h⟩ | ⟨-, hroom, h⟩ | ⟨hreleased, hfull, h⟩ <;> rw [environmentMove, h]
    · exact .held
    · exact .pushWrite w hroom
    · exact .overrunWrite w rfl hreleased hfull
  | pushRead q =>
    rcases pushReadMove_cases q s with ⟨-, h⟩ | ⟨-, hroom, h⟩ | ⟨hreleased, hfull, h⟩ <;> rw [environmentMove, h]
    · exact .held
    · exact .pushRead q hroom
    · exact .overrunRead q rfl hreleased hfull
  | releaseMaster =>
    rcases releaseMasterMove_cases s with ⟨hbus, hclock, h⟩ | h <;> rw [environmentMove, h]
    · exact .release hbus hclock
    · exact .held
  | popResponse => exact .popResponse
  | ledDriverPop => exact .popLed
  | uartReceive n c => exact .uart n _
  | uartTransmit n => exact .uart n _
  | uartChange n status ready rxreg => exact .uart n _
  | armBus => exact .armBus
  | startClock => exact .startClock

/-- No move touches the controller's own state (R20). -/
theorem MoveEffect.frame {m : Move} {s t : State} (h : MoveEffect m s t) :
    t.pixelCount = s.pixelCount ∧ t.selectedIndex = s.selectedIndex ∧ t.buf = s.buf ∧
      t.pointer = s.pointer ∧ t.phase = s.phase ∧ t.draws = s.draws := by
  cases h <;> simp

/-- The environment touches the queues at their outer ends only (R20). -/
theorem MoveEffect.queues {m : Move} {s t : State} (h : MoveEffect m s t) :
    s.wq <+: t.wq ∧ s.rq <+: t.rq ∧ t.rsp <:+ s.rsp ∧ t.ledq <:+ s.ledq := by
  cases h <;> simp [List.tail_suffix]

/-! ## The dispatcher's holds -/

/-- Everything the push of a response can do (R66): append it, or hold. -/
theorem respPushStep_cases (w : Word) (s : State) :
    (s.rsp.length < Config.rspDepth ∧ respPushStep w s = { s with rsp := s.rsp ++ [w], phase := .idle }) ∨
      respPushStep w s = s :=
  (Nat.lt_or_ge s.rsp.length Config.rspDepth).imp (fun h => ⟨h, respPushStep_room w s h⟩) (respPushStep_full w s)

end Machine
end Sys2Proof
end

section
/-! The invariant of every reachable state (10_state.md R11 to R15, R21; 30_encoding.md R52, R53): the reset state meets
it, and each agent's step keeps it. -/

namespace Sys2Proof.Machine

/-! ## Updates the parts of the invariant do not depend on -/

theorem State.queueInv_of_eq {s t : State} (hwq : t.wq = s.wq) (hrq : t.rq = s.rq) (hrsp : t.rsp = s.rsp)
    (hledq : t.ledq = s.ledq) (h : s.queueInv) : t.queueInv := by
  simpa only [State.queueInv, hwq, hrq, hrsp, hledq] using h

theorem State.formatInv_of_eq {s t : State} (hrsp : t.rsp = s.rsp) (hledq : t.ledq = s.ledq)
    (hphase : ∀ w, t.phase = .respPush w → isRespWord w) (h : s.formatInv) : t.formatInv := by
  obtain ⟨hr, hl, -⟩ := h
  exact ⟨hrsp ▸ hr, hledq ▸ hl, hphase⟩

theorem State.startupInv_of_eq {s t : State} (heq : t.startup = s.startup) (h : s.startupInv) : t.startupInv := by
  simpa only [State.startupInv, heq] using h

theorem State.inv.setUart {s : State} (h : s.inv) (n : UartId) (u : Uart) : (s.setUart n u).inv := by
  cases n <;> exact h

/-- The end of a request in service leaves nothing to be emitted or answered. -/
theorem State.inv.toIdle {s : State} (h : s.inv) : { s with phase := .idle }.inv := by
  obtain ⟨⟨hpos, hsel, -⟩, hqueue, ⟨hrsp, hledq, -⟩, hstartup⟩ := h
  exact ⟨⟨hpos, hsel, nofun⟩, hqueue, ⟨hrsp, hledq, nofun⟩, hstartup⟩

theorem State.inv.popWrite {s : State} {w : Word} {ws : List Word} (h : s.inv) (hw : s.wq = w :: ws) :
    { s with wq := ws }.inv := by
  obtain ⟨hled, ⟨hwq, hrest⟩, hformat, hstartup⟩ := h
  rw [hw, List.length_cons] at hwq
  exact ⟨hled, ⟨Nat.le_of_succ_le hwq, hrest⟩, hformat, hstartup⟩

theorem State.inv.popRead {s : State} {q : Word} {qs : List Word} (h : s.inv) (hq : s.rq = q :: qs) :
    { s with rq := qs }.inv := by
  obtain ⟨hled, ⟨hwq, hrq, hrest⟩, hformat, hstartup⟩ := h
  rw [hq, List.length_cons] at hrq
  exact ⟨hled, ⟨hwq, Nat.le_of_succ_le hrq, hrest⟩, hformat, hstartup⟩

/-! ## The dispatcher -/

/-- A write serviced by an idle dispatcher keeps the selected index below the logical length: a select raises the length
above it, and the LED reset command sets both (R76, R78). -/
theorem WriteEffect.keeps_ledInv {w : Word} {s t : State} (h : WriteEffect w s t) (hp : s.phase = .idle)
    (hi : s.ledInv) : t.ledInv := by
  obtain ⟨hpos, hsel, hlatch⟩ := hi
  cases h with
  | select i c ha hi hc => exact ⟨by simp only; omega, by simp only; omega, fun j hj => absurd (hp.symm.trans hj) nofun⟩
  | ledReset => exact ⟨Nat.le_refl 1, Nat.one_pos, fun i hi => absurd (hp.symm.trans hi) nofun⟩
  | latch => exact ⟨hpos, hsel, fun i hi => by cases hi; exact hpos⟩
  | sendU0 | sendU1 => exact ⟨hpos, hsel, nofun⟩
  | _ => exact ⟨hpos, hsel, hlatch⟩

/-- No write leaves an answer to push. -/
theorem WriteEffect.phase_ne_respPush {w : Word} {s t : State} (h : WriteEffect w s t) (hp : s.phase = .idle)
    (v : Word) : t.phase ≠ .respPush v := by
  cases h <;> simp [hp]

theorem WriteEffect.keeps_inv {w : Word} {s t : State} (h : WriteEffect w s t) (hp : s.phase = .idle)
    (hi : s.inv) : t.inv := by
  obtain ⟨hled, hqueue, hformat, hstartup⟩ := hi
  obtain ⟨hwq, hrq, hrsp, hledq, -, hst, -⟩ := h.frame
  exact ⟨h.keeps_ledInv hp hled, State.queueInv_of_eq hwq hrq hrsp hledq hqueue,
    State.formatInv_of_eq hrsp hledq (fun v hv => absurd hv (h.phase_ne_respPush hp v)) hformat,
    State.startupInv_of_eq hst hstartup⟩

/-- A read's answer has the format of R52, and its side effect touches no queue and no LED variable. -/
theorem State.inv.respond_readMux {s : State} (h : s.inv) (a : Target) :
    (respond (readMux a s).1 (readMux a s).2).inv := by
  obtain ⟨⟨hpos, hsel, -⟩, hqueue, hformat, hstartup⟩ := h
  obtain ⟨hpc, hsi, -, -, hwq, hrq, hrsp, hledq, -, hst, -⟩ := readMux_frame a s
  refine ⟨⟨?_, ?_, nofun⟩, State.queueInv_of_eq hwq hrq hrsp hledq hqueue,
    State.formatInv_of_eq hrsp hledq ?_ hformat, State.startupInv_of_eq hst hstartup⟩
  · rw [respond_pixelCount, hpc]; exact hpos
  · rw [respond_pixelCount, respond_selectedIndex, hpc, hsi]; exact hsel
  · intro w hw
    cases hw
    exact isRespWord_respWord _

/-- One LED word more in `LEDQ`, with room for it, and the latch at a pixel of the string or at its end (R80). -/
theorem State.inv.emit {s : State} (h : s.inv) (hroom : s.ledq.length < Config.ledqDepth) (x : Pixel) {p : Phase}
    (hlatch : ∀ i, p = .latchEmit i → i.val < s.pixelCount.val) (hresp : ∀ w, p ≠ .respPush w) :
    { s with ledq := s.ledq ++ [ledWord x], phase := p }.inv := by
  obtain ⟨⟨hpos, hsel, -⟩, ⟨hwq, hrq, hrsp, -⟩, ⟨hresps, hleds, -⟩, hstartup⟩ := h
  refine ⟨⟨hpos, hsel, hlatch⟩, ⟨hwq, hrq, hrsp, ?_⟩, ⟨hresps, ?_, fun w hw => absurd hw (hresp w)⟩, hstartup⟩
  · simpa using hroom
  · simpa [or_imp, forall_and, isLedWord_ledWord] using hleds

theorem latchStep_inv {s : State} (i : Fin 250) (h : s.inv) : (latchStep i s).inv := by
  rcases latchStep_cases i s with ⟨-, e⟩ | ⟨hroom, j, -, hlt, e⟩ | ⟨hroom, -, e⟩ <;> rw [e]
  · exact h
  · exact h.emit hroom _ (fun k hk => by cases hk; exact hlt) nofun
  · exact h.emit hroom _ nofun nofun

theorem uartTxStep_inv {s : State} (n : UartId) (b : Byte) (h : s.inv) : (uartTxStep n b s).inv := by
  cases hr : (s.uart n).txReady with
  | true => rw [uartTxStep_ready n b s hr]; exact (h.setUart n _).toIdle
  | false => rw [uartTxStep_busy n b s hr]; exact h

theorem respPushStep_inv {s : State} {w : Word} (hp : s.phase = .respPush w) (h : s.inv) : (respPushStep w s).inv := by
  rcases respPushStep_cases w s with ⟨hroom, e⟩ | e <;> rw [e]
  · obtain ⟨⟨hpos, hsel, -⟩, ⟨hwq, hrq, -, hledq⟩, ⟨hresps, hleds, hwait⟩, hstartup⟩ := h
    refine ⟨⟨hpos, hsel, nofun⟩, ⟨hwq, hrq, ?_, hledq⟩, ⟨?_, hleds, nofun⟩, hstartup⟩
    · simpa using hroom
    · simpa [or_imp, forall_and, hwait w hp] using hresps
  · exact h

theorem dispatcherStep_inv {s t : State} (hi : s.inv) (h : dispatcherStep s = .next t) : t.inv := by
  rcases dispatcherStep_cases h with ⟨w, ws, hp, hw, he⟩ | ⟨q, qs, -, -, hq, he⟩ | ⟨-, -, -, rfl⟩ | ⟨i, -, rfl⟩ |
    ⟨n, b, -, rfl⟩ | ⟨w, hp, rfl⟩
  · exact (writeEffect_of_exec he).keeps_inv hp (hi.popWrite hw)
  · rw [eq_respond_of_exec_decodeRead he]
    exact (hi.popRead hq).respond_readMux _
  · exact hi
  · exact latchStep_inv i hi
  · exact uartTxStep_inv n b hi
  · exact respPushStep_inv hp hi

/-! ## The environment -/

theorem MoveEffect.keeps_inv {m : Move} {s t : State} (h : MoveEffect m s t) (hi : s.inv) : t.inv := by
  obtain ⟨hled, ⟨hwq, hrq, hrsp, hledq⟩, ⟨hresps, hleds, hwait⟩, hstartup⟩ := id hi
  cases h with
  | held | overrunWrite | overrunRead => exact hi
  | uart n u => exact hi.setUart n u
  | pushWrite w hroom =>
    exact ⟨hled, ⟨by simpa using hroom, hrq, hrsp, hledq⟩, ⟨hresps, hleds, hwait⟩, hstartup⟩
  | pushRead q hroom =>
    exact ⟨hled, ⟨hwq, by simpa using hroom, hrsp, hledq⟩, ⟨hresps, hleds, hwait⟩, hstartup⟩
  | popResponse =>
    exact ⟨hled, ⟨hwq, hrq, (List.tail_sublist _).length_le.trans hrsp, hledq⟩,
      ⟨fun w hw => hresps w (List.mem_of_mem_tail hw), hleds, hwait⟩, hstartup⟩
  | popLed =>
    exact ⟨hled, ⟨hwq, hrq, hrsp, (List.tail_sublist _).length_le.trans hledq⟩,
      ⟨hresps, fun w hw => hleds w (List.mem_of_mem_tail hw), hwait⟩, hstartup⟩
  | armBus =>
    exact ⟨hled, ⟨hwq, hrq, hrsp, hledq⟩, ⟨hresps, hleds, hwait⟩, fun hr => ⟨rfl, (hstartup hr).right⟩⟩
  | startClock =>
    exact ⟨hled, ⟨hwq, hrq, hrsp, hledq⟩, ⟨hresps, hleds, hwait⟩, fun hr => ⟨(hstartup hr).left, rfl⟩⟩
  | release hbus hclock =>
    exact ⟨hled, ⟨hwq, hrq, hrsp, hledq⟩, ⟨hresps, hleds, hwait⟩, fun _ => ⟨hbus, hclock⟩⟩

/-! ## Launch -/

/-- The launch values meet every part of the invariant but the startup order, which they do not speak of. -/
theorem State.atLaunch.inv {s : State} (h : s.atLaunch) (hs : s.startupInv) : s.inv := by
  obtain ⟨hpc, hsi, -, -, hp, hwq, hrq, hrsp, hledq, -⟩ := h
  refine ⟨⟨?_, ?_, ?_⟩, ?_, ⟨?_, ?_, ?_⟩, hs⟩ <;> simp [hpc, hsi, hp, hrsp, hledq, State.queueInv, hwq, hrq]

/-- Controller reset gives the launch values, whatever the state was (R28, R129). -/
theorem controllerReset_atLaunch (s : State) : (controllerReset s).atLaunch := by
  simp [State.atLaunch]

theorem reset_atLaunch : State.reset.atLaunch := controllerReset_atLaunch State.reset

/-- A pixel right after controller reset (R28). -/
theorem bufReset_getElem (i : Fin 250) : (bufReset[i].r, bufReset[i].g, bufReset[i].b) = Config.pixelReset i := by
  simp [bufReset]

/-! ## The statements -/

/-- Settles O51: the dispatcher keeps the invariant whatever it services or holds, and so does each move of the
environment. -/
theorem stepKeepsTheInvariant : Obligations.StepKeepsTheInvariant := by
  unfold Obligations.StepKeepsTheInvariant
  intro s t hi h
  have hi : s.turnTaken.inv := hi
  rcases step_cases h with ⟨-, hd⟩ | ⟨m, -, rfl⟩
  · exact dispatcherStep_inv hi hd
  · exact (environmentMove_effect m _).keeps_inv hi

/-- Settles O52: the reset state has the launch values, with the master still held. -/
theorem resetMeetsTheInvariants : Obligations.ResetMeetsTheInvariants :=
  ⟨reset_atLaunch.inv nofun, fun _ => reset_atLaunch⟩

/-- Settles O54: controller reset writes the launch values over every state, and `State.reset` is its own reset. -/
theorem controllerResetGivesTheResetValues : Obligations.ControllerResetGivesTheResetValues :=
  fun s => ⟨controllerReset_atLaunch s, rfl, rfl, reset_atLaunch, bufReset_getElem⟩

end Sys2Proof.Machine
end

section
/-! What changes each piece of the controller's own state (10_state.md R7, R9, R10, R19, R20): which step, and by what
request. -/

namespace Sys2Proof.Machine

/-! ## Steps that service no request -/

theorem latchStep_frame (i : Fin 250) (s : State) :
    latchStep i s = { s with ledq := (latchStep i s).ledq, phase := (latchStep i s).phase } := by
  rcases latchStep_cases i s with ⟨-, e⟩ | ⟨-, j, -, -, e⟩ | ⟨-, -, e⟩ <;> rw [e]

theorem uartTxStep_frame (n : UartId) (b : Byte) (s : State) :
    uartTxStep n b s = { s with
      uart0 := (uartTxStep n b s).uart0, uart1 := (uartTxStep n b s).uart1, phase := (uartTxStep n b s).phase } := by
  cases hr : (s.uart n).txReady with
  | true => rw [uartTxStep_ready n b s hr]; cases n <;> rfl
  | false => rw [uartTxStep_busy n b s hr]

theorem respPushStep_frame (w : Word) (s : State) :
    respPushStep w s = { s with rsp := (respPushStep w s).rsp, phase := (respPushStep w s).phase } := by
  rcases respPushStep_cases w s with ⟨-, e⟩ | e <;> rw [e]

/-- A step of the dispatcher services a write, or services a read, or changes nothing but the outputs and the phase. -/
theorem dispatcherStep_services_or_frame {s t : State} (h : dispatcherStep s = .next t) :
    (s.phase = .idle ∧ ∃ w ws, s.wq = w :: ws ∧ WriteEffect w { s with wq := ws } t) ∨
    (s.phase = .idle ∧ s.wq = [] ∧ ∃ q qs v, s.rq = q :: qs ∧
      t = respond v (readMux (decodeAddress (rreqAddress q)) { s with rq := qs }).2) ∨
    t = { s with phase := t.phase, rsp := t.rsp, ledq := t.ledq, uart0 := t.uart0, uart1 := t.uart1 } := by
  rcases dispatcherStep_cases h with ⟨w, ws, hp, hw, he⟩ | ⟨q, qs, hp, hw, hq, he⟩ | ⟨-, -, -, rfl⟩ | ⟨i, -, rfl⟩ |
    ⟨n, b, -, rfl⟩ | ⟨w, -, rfl⟩
  · exact .inl ⟨hp, w, ws, hw, writeEffect_of_exec he⟩
  · exact .inr (.inl ⟨hp, hw, q, qs, _, hq, eq_respond_of_exec_decodeRead he⟩)
  · exact .inr (.inr rfl)
  · exact .inr (.inr (by rw [latchStep_frame]))
  · exact .inr (.inr (by rw [uartTxStep_frame]))
  · exact .inr (.inr (by rw [respPushStep_frame]))

/-- A step services a write, or services a read, or leaves the logical length, the pixels and the cursor as they are. -/
theorem step_services_or_keeps {s t : State} (h : step s = .next t) :
    (s.dispatcherMoves ∧ s.phase = .idle ∧
      ∃ w ws, s.wq = w :: ws ∧ WriteEffect w { s.turnTaken with wq := ws } t) ∨
    (s.dispatcherMoves ∧ s.phase = .idle ∧ s.wq = [] ∧ ∃ q qs v, s.rq = q :: qs ∧
      t = respond v (readMux (decodeAddress (rreqAddress q)) { s.turnTaken with rq := qs }).2) ∨
    (t.pixelCount = s.pixelCount ∧ t.buf = s.buf ∧ t.pointer = s.pointer) := by
  rcases step_cases h with ⟨hd, h⟩ | ⟨m, -, rfl⟩
  · rcases dispatcherStep_services_or_frame h with hwrite | hread | hframe
    · exact .inl ⟨hd, hwrite⟩
    · exact .inr (.inl ⟨hd, hread⟩)
    · rw [hframe]
      exact .inr (.inr ⟨rfl, rfl, rfl⟩)
  · obtain ⟨hpc, -, hbuf, hptr, -, -⟩ := (environmentMove_effect m s.turnTaken).frame
    exact .inr (.inr ⟨hpc, hbuf, hptr⟩)

/-- No step of the dispatcher records an overrun (R113). -/
theorem dispatcherStep_overrun {s t : State} (h : dispatcherStep s = .next t) : t.overrun = s.overrun := by
  rcases dispatcherStep_services_or_frame h with ⟨-, w, ws, -, he⟩ | ⟨-, -, q, qs, v, -, rfl⟩ | hframe
  · obtain ⟨-, -, -, -, hover, -, -⟩ := he.frame
    exact hover
  · obtain ⟨-, -, -, -, -, -, -, -, hover, -, -⟩ := readMux_frame (decodeAddress (rreqAddress q)) { s with rq := qs }
    exact hover
  · rw [hframe]

/-! ## Each register -/

/-- Only a select above the logical length and the LED reset command change it (R76, R78). -/
theorem WriteEffect.pixelCount_change {w : Word} {s t : State} (h : WriteEffect w s t)
    (hne : t.pixelCount ≠ s.pixelCount) :
    wreqAddress w = 0x80 ∧
      (((wreqData w).toNat ≤ 249 ∧ s.pixelCount.val < t.pixelCount.val ∧
          t.pixelCount.val = (wreqData w).toNat + 1) ∨
        ((wreqData w).toNat = 254 ∧ t.pixelCount.val = 1)) := by
  cases h with
  | select i c ha hi hc =>
    have hne : c.val ≠ s.pixelCount.val := fun e => hne (Fin.ext e)
    exact ⟨ha, .inl ⟨by omega, by simp only; omega, by simp only; omega⟩⟩
  | ledReset ha hv => exact ⟨ha, .inr ⟨hv, rfl⟩⟩
  | _ => exact absurd rfl hne

/-- The one pixel a colour write can change, and what it becomes. -/
theorem setSelectedPixel_buf_change {s : State} {p : Pixel} {j : Fin 250}
    (hne : (s.setSelectedPixel p).buf[j] ≠ s.buf[j]) :
    j = s.selectedIndex ∧ (s.setSelectedPixel p).buf[j] = p := by
  obtain rfl : j = s.selectedIndex := by
    by_contra hj
    exact hne (State.setSelectedPixel_buf_other p s j hj)
  exact ⟨rfl, State.selectedPixel_setSelectedPixel p s⟩

/-- Only a colour write changes a pixel, the selected one, in its own channel (R83, R84, R85). -/
theorem WriteEffect.buf_change {w : Word} {s t : State} (h : WriteEffect w s t) {j : Fin 250}
    (hne : t.buf[j] ≠ s.buf[j]) :
    j = s.selectedIndex ∧
      ((wreqAddress w = 0x82 ∧ t.buf[j] = ⟨s.buf[j].r, s.buf[j].g, wreqData w⟩) ∨
        (wreqAddress w = 0x84 ∧ t.buf[j] = ⟨wreqData w, s.buf[j].g, s.buf[j].b⟩) ∨
        (wreqAddress w = 0x86 ∧ t.buf[j] = ⟨s.buf[j].r, wreqData w, s.buf[j].b⟩)) := by
  cases h with
  | blue ha =>
    obtain ⟨rfl, hp⟩ := setSelectedPixel_buf_change hne
    exact ⟨rfl, .inl ⟨ha, hp⟩⟩
  | red ha =>
    obtain ⟨rfl, hp⟩ := setSelectedPixel_buf_change hne
    exact ⟨rfl, .inr (.inl ⟨ha, hp⟩)⟩
  | green ha =>
    obtain ⟨rfl, hp⟩ := setSelectedPixel_buf_change hne
    exact ⟨rfl, .inr (.inr ⟨ha, hp⟩)⟩
  | _ => exact absurd rfl hne

theorem toNat_setWidth_lt {k : Nat} (d : BitVec k) (n : Nat) : (d.setWidth n).toNat < 2 ^ k :=
  (BitVec.toNat_setWidth n d ▸ Nat.mod_le _ _).trans_lt d.isLt

/-- A masked merge of a value of `k` bits leaves the bits outside its field (R57 item 4). -/
theorem mergeField_and_not_mask {m x : Word} (k sh : Nat) (p : Word) (hm : m.toNat = 2 ^ k - 1)
    (hx : x.toNat < 2 ^ k) : mergeField m sh x p &&& ~~~(m <<< sh) = p &&& ~~~(m <<< sh) := by
  have hmask : x &&& m = x := BitVec.eq_of_toNat_eq (by
    rw [BitVec.toNat_and, hm, Nat.and_two_pow_sub_one_of_lt_two_pow hx])
  have hfield : x <<< sh = x <<< sh &&& m <<< sh := by rw [← BitVec.shiftLeft_and_distrib, hmask]
  rw [mergeField, hfield]
  ext i hi
  simp only [BitVec.getElem_and, BitVec.getElem_or, BitVec.getElem_not]
  cases (m <<< sh)[i] <;> simp

/-- Only the three address registers' writes move the cursor, each within its own field (R91, R92, R93). -/
theorem WriteEffect.pointer_change {w : Word} {s t : State} (h : WriteEffect w s t) (hne : t.pointer ≠ s.pointer) :
    (wreqAddress w = 0x92 ∧ t.pointer &&& 0xFFFFFF00 = s.pointer &&& 0xFFFFFF00) ∨
      (wreqAddress w = 0x94 ∧ t.pointer &&& 0xFFFF00FF = s.pointer &&& 0xFFFF00FF) ∨
      (wreqAddress w = 0x96 ∧ t.pointer &&& 0xFFF0FFFF = s.pointer &&& 0xFFF0FFFF) := by
  cases h with
  | faddr0 ha => exact .inl ⟨ha, mergeField_and_not_mask 8 0 _ rfl (toNat_setWidth_lt _ _)⟩
  | faddr1 ha => exact .inr (.inl ⟨ha, mergeField_and_not_mask 8 8 _ rfl (toNat_setWidth_lt _ _)⟩)
  | faddr2 ha => exact .inr (.inr ⟨ha, mergeField_and_not_mask 4 16 _ rfl (toNat_setWidth_lt _ _)⟩)
  | _ => exact absurd rfl hne

/-- Only a move that pushes into a full request queue records an overrun (R74, R113). -/
theorem MoveEffect.overrun_change {m : Move} {s t : State} (h : MoveEffect m s t) (hs : s.overrun = false)
    (ht : t.overrun = true) :
    s.startup.masterReleased = true ∧ t.wq = s.wq ∧ t.rq = s.rq ∧
      ((∃ w, m = .pushWrite w ∧ Config.wqDepth ≤ s.wq.length) ∨
        ∃ q, m = .pushRead q ∧ Config.rqDepth ≤ s.rq.length) := by
  cases h with
  | overrunWrite w hm hreleased hfull => exact ⟨hreleased, rfl, rfl, .inl ⟨w, hm, hfull⟩⟩
  | overrunRead q hm hreleased hfull => exact ⟨hreleased, rfl, rfl, .inr ⟨q, hm, hfull⟩⟩
  | uart n u => exact absurd ht (by simp [hs])
  | _ => exact absurd (hs.symm.trans ht) nofun

/-! ## The statements -/

/-- Settles O28: a read and a step that services nothing keep the logical length, so the step serviced a write. -/
theorem pixelCountChangesOnlyBySelectOrReset : Obligations.PixelCountChangesOnlyBySelectOrReset := by
  unfold Obligations.PixelCountChangesOnlyBySelectOrReset
  intro s t h hne
  rcases step_services_or_keeps h with ⟨hd, hp, w, ws, hw, he⟩ | ⟨-, -, -, q, qs, v, -, rfl⟩ | ⟨hpc, -, -⟩
  · exact ⟨hd, hp, w, ws, hw, he.pixelCount_change hne⟩
  · obtain ⟨hpc, -⟩ := readMux_frame (decodeAddress (rreqAddress q)) { s.turnTaken with rq := qs }
    exact absurd hpc hne
  · exact absurd hpc hne

/-- Settles O30: a read and a step that services nothing keep the pixels, so the step serviced a write. -/
theorem pixelsChangeOnlyByColourWrites : Obligations.PixelsChangeOnlyByColourWrites := by
  unfold Obligations.PixelsChangeOnlyByColourWrites
  intro s t j h hne
  have hbuf : t.buf ≠ s.buf := fun e => hne (by rw [e])
  rcases step_services_or_keeps h with ⟨hd, hp, w, ws, hw, he⟩ | ⟨-, -, -, q, qs, v, -, rfl⟩ | ⟨-, hb, -⟩
  · obtain ⟨hj, hchannel⟩ := he.buf_change hne
    exact ⟨hd, hp, hj, w, ws, hw, hchannel⟩
  · obtain ⟨-, -, hb, -⟩ := readMux_frame (decodeAddress (rreqAddress q)) { s.turnTaken with rq := qs }
    exact absurd hb hbuf
  · exact absurd hb hbuf

/-- Settles O37: a serviced write moves the cursor within its own field, a serviced read only if it reads `FDATA`. -/
theorem cursorMovesOnlyAsTheMapSays : Obligations.CursorMovesOnlyAsTheMapSays := by
  unfold Obligations.CursorMovesOnlyAsTheMapSays
  intro s t h hne
  rcases step_services_or_keeps h with ⟨hd, hp, w, ws, hw, he⟩ | ⟨hd, hp, hw, q, qs, v, hq, rfl⟩ | ⟨-, -, hptr⟩
  · exact ⟨hd, hp, .inl ⟨w, ws, hw, he.pointer_change hne⟩⟩
  · have hmux := readMux_pointer (decodeAddress (rreqAddress q)) { s.turnTaken with rq := qs }
    by_cases hf : decodeAddress (rreqAddress q) = .fdata
    · rw [if_pos hf] at hmux
      exact ⟨hd, hp, .inr ⟨hw, q, qs, hq, eq_of_address_decodeAddress (by rw [hf]; rfl), hmux⟩⟩
    · rw [if_neg hf] at hmux
      exact absurd hmux hne
  · exact absurd hptr hne

/-- Settles O46, by the effects a move of the environment can have. -/
theorem onlyTheDispatcherChangesTheControllersState : Obligations.OnlyTheDispatcherChangesTheControllersState := by
  unfold Obligations.OnlyTheDispatcherChangesTheControllersState
  intro s t m hm h
  rw [step_of_environmentMoves hm] at h
  cases h
  have he := environmentMove_effect m s.turnTaken
  obtain ⟨hpc, hsi, hbuf, hptr, hphase, hdraws⟩ := he.frame
  exact ⟨hpc, hsi, hbuf, hptr, hphase, hdraws, he.queues⟩

/-- Settles O50: no step of the dispatcher records an overrun, and a move that does is a push into a full queue. -/
theorem overrunIsSetOnlyByAPushIntoAFullQueue : Obligations.OverrunIsSetOnlyByAPushIntoAFullQueue := by
  unfold Obligations.OverrunIsSetOnlyByAPushIntoAFullQueue
  intro s t h ht
  rcases step_cases h with ⟨hd, h⟩ | ⟨m, hm, rfl⟩
  · have hkept : t.overrun = s.turnTaken.overrun := dispatcherStep_overrun h
    exact absurd (ht.symm.trans (hkept.trans hd.1)) nofun
  · obtain ⟨hreleased, hwq, hrq, hfull⟩ := (environmentMove_effect m s.turnTaken).overrun_change hm.1 ht
    refine ⟨hreleased, hwq, hrq, hfull.imp ?_ ?_⟩
    · rintro ⟨w, rfl, hlen⟩
      exact ⟨w, hm, hlen⟩
    · rintro ⟨q, rfl, hlen⟩
      exact ⟨q, hm, hlen⟩

end Sys2Proof.Machine
end

section
/-! What reads nothing of a piece of state commutes with replacing it (10_state.md R7, R16, R109). -/

namespace Sys2Proof.Machine

/-! ## `pixel_count` -/

/-- Every read is served by one input of the multiplexer (R65, R67). -/
theorem exec_of_channel_read {i : Instr} (h : i.channel = .read) : ∃ a, ∀ s, exec i s = serviceRead a s := by
  cases i with
  | rdU0Data | rdU0Stat | rdU1Data | rdU1Stat | rdLedctl | rdLedB | rdLedR | rdLedG | rdFdata | rdFaddr0 | rdFaddr1
    | rdFaddr2 | rdUnmapped a => exact ⟨_, fun _ => rfl⟩
  | _ => cases h

theorem uartReadData_replace_pixelCount (n : UartId) (s : State) (c : Fin 251) :
    uartReadData n { s with pixelCount := c } =
      ((uartReadData n s).1, { (uartReadData n s).2 with pixelCount := c }) := by
  have hn : State.uart { s with pixelCount := c } n = s.uart n := by cases n <;> rfl
  rcases uartReadData_cases n s with ⟨b, rest, hrx, e⟩ | ⟨hrx, e⟩
  · rw [e, uartReadData_pending n _ b rest (hn ▸ hrx)]
    cases n <;> rfl
  · rw [e, uartReadData_empty n _ (hn ▸ hrx), hn]

theorem flashReadAndAdvance_replace_pixelCount (s : State) (c : Fin 251) :
    flashReadAndAdvance { s with pixelCount := c } =
      ((flashReadAndAdvance s).1, { (flashReadAndAdvance s).2 with pixelCount := c }) := by
  rcases flashReadAndAdvance_cases s with ⟨hin, e⟩ | ⟨hout, e⟩
  · rw [e, flashReadAndAdvance_inside { s with pixelCount := c } hin]
  · rw [e, flashReadAndAdvance_outside { s with pixelCount := c } hout]

/-- No input of the multiplexer reads the logical length (R82). -/
theorem readMux_replace_pixelCount (a : Target) (s : State) (c : Fin 251) :
    readMux a { s with pixelCount := c } = ((readMux a s).1, { (readMux a s).2 with pixelCount := c }) := by
  cases a with
  | u0data => exact uartReadData_replace_pixelCount .u0 s c
  | u1data => exact uartReadData_replace_pixelCount .u1 s c
  | fdata => exact flashReadAndAdvance_replace_pixelCount s c
  | _ => rfl

/-- Settles O29: the multiplexer's inputs read nothing of the logical length. -/
theorem pixelCountCannotBeRead : Obligations.PixelCountCannotBeRead := by
  unfold Obligations.PixelCountCannotBeRead
  intro i s c hi
  obtain ⟨a, ha⟩ := exec_of_channel_read hi
  refine ⟨_, ha s, ?_⟩
  rw [ha, serviceRead, readMux_replace_pixelCount]
  rfl

/-! ## Transceivers -/

/-- What `g` does is the same whatever transceiver `m` holds. -/
def IgnoresUart (m : UartId) (g : State → State) : Prop :=
  ∀ (s : State) (u : Uart), g (s.setUart m u) = (g s).setUart m u

/-- What ignores a transceiver leaves it as it is: replacing it by itself changes nothing. -/
theorem IgnoresUart.keeps {m : UartId} {g : State → State} (h : IgnoresUart m g) (s : State) :
    (g s).uart m = s.uart m := by
  have hself := h s (s.uart m)
  rw [State.setUart_self] at hself
  rw [hself, State.uart_setUart_same]

theorem State.setUart_comm {n m : UartId} (hnm : n ≠ m) (u v : Uart) (s : State) :
    (s.setUart n u).setUart m v = (s.setUart m v).setUart n u := by
  cases n <;> cases m
  · contradiction
  · rfl
  · rfl
  · contradiction

theorem setUart_setPhase (m : UartId) (u : Uart) (p : Phase) (s : State) :
    { s.setUart m u with phase := p } = { s with phase := p }.setUart m u := by
  cases m <;> rfl

section
variable {n m : UartId} (hnm : n ≠ m)
include hnm

theorem ignoresUart_uartTxStep (b : Byte) : IgnoresUart m (uartTxStep n b) := by
  intro s u
  have hn : (s.setUart m u).uart n = s.uart n := State.uart_setUart_other hnm u s
  cases hr : (s.uart n).txReady with
  | true =>
    rw [uartTxStep_ready n b s hr, uartTxStep_ready n b _ (hn ▸ hr), hn, ← State.setUart_comm hnm, setUart_setPhase]
  | false => rw [uartTxStep_busy n b s hr, uartTxStep_busy n b _ (hn ▸ hr)]

theorem ignoresUart_readData :
    IgnoresUart m fun s => respond (uartReadData n s).1 (uartReadData n s).2 := by
  intro s u
  have hn : (s.setUart m u).uart n = s.uart n := State.uart_setUart_other hnm u s
  dsimp only
  rcases uartReadData_cases n s with ⟨b, rest, hrx, e⟩ | ⟨hrx, e⟩
  · rw [e, uartReadData_pending n _ b rest (hn ▸ hrx), hn, ← State.setUart_comm hnm]
    exact setUart_setPhase m u _ _
  · rw [e, uartReadData_empty n _ (hn ▸ hrx), hn]
    cases m <;> rfl

theorem ignoresUart_readStatus : IgnoresUart m fun s => respond (statusByte (s.uart n).status) s := by
  intro s u
  dsimp only
  rw [State.uart_setUart_other hnm]
  exact setUart_setPhase m u _ _

end

theorem ignoresUart_setPhase (m : UartId) (p : Phase) : IgnoresUart m fun s => { s with phase := p } :=
  fun s u => setUart_setPhase m u p s

theorem ignoresUart_id (m : UartId) : IgnoresUart m id := fun _ _ => rfl

/-- The four operations of transceiver `n` (R101 to R108), the data byte of a write being `d`. -/
def uartInstrs (n : UartId) (d : Byte) : List Instr :=
  match n with
  | .u0 => [.wrU0Data d, .wrU0Stat d, .rdU0Data, .rdU0Stat]
  | .u1 => [.wrU1Data d, .wrU1Stat d, .rdU1Data, .rdU1Stat]

/-- Every operation on one transceiver ignores the other (R109). -/
theorem exec_ignoresUart {n m : UartId} (hnm : n ≠ m) {d : Byte} {i : Instr} (hi : i ∈ uartInstrs n d) :
    ∃ g, IgnoresUart m g ∧ ∀ s, exec i s = .next (g s) := by
  cases n <;> simp only [uartInstrs, List.mem_cons, List.not_mem_nil, or_false] at hi
  all_goals
    obtain rfl | rfl | rfl | rfl := hi
    · exact ⟨_, ignoresUart_setPhase m _, fun _ => rfl⟩
    · exact ⟨_, ignoresUart_id m, fun _ => rfl⟩
    · exact ⟨_, ignoresUart_readData hnm, fun _ => rfl⟩
    · exact ⟨_, ignoresUart_readStatus hnm, fun _ => rfl⟩

/-- The step that sends a byte of a serial write (R101, R102). -/
theorem step_of_uartTx {s : State} {n : UartId} {b : Byte} (hd : s.dispatcherMoves) (hp : s.phase = .uartTx n b) :
    step s = .next (uartTxStep n b s.turnTaken) := by
  rw [step_of_dispatcherMoves hd]
  simp [dispatcherStep, hp]

/-- An operation or a send that ignores a transceiver, in the two runs that differ in it. -/
theorem IgnoresUart.twoRuns {m : UartId} {g : State → State} (hg : IgnoresUart m g)
    {f : State → Host.Outcome State Fault Refusal} (s : State) (u : Uart) (h : f s = .next (g s))
    (h' : f (s.setUart m u) = .next (g (s.setUart m u))) :
    ∃ t, f s = .next t ∧ t.uart m = s.uart m ∧ f (s.setUart m u) = .next (t.setUart m u) :=
  ⟨g s, h, hg.keeps s, by rw [h', hg s u]⟩

theorem exec_twoRuns {n m : UartId} (hnm : n ≠ m) (s : State) (u : Uart) {d : Byte} {i : Instr}
    (hi : i ∈ uartInstrs n d) :
    ∃ t, exec i s = .next t ∧ t.uart m = s.uart m ∧ exec i (s.setUart m u) = .next (t.setUart m u) := by
  obtain ⟨g, hg, he⟩ := exec_ignoresUart hnm hi
  exact hg.twoRuns s u (he s) (he _)

theorem step_twoRuns {n m : UartId} (hnm : n ≠ m) (s : State) (u : Uart) {d : Byte} (hd : s.dispatcherMoves)
    (hp : s.phase = .uartTx n d) :
    ∃ t, step s = .next t ∧ t.uart m = s.uart m ∧ step (s.setUart m u) = .next (t.setUart m u) := by
  have hd' : (s.setUart m u).dispatcherMoves := by cases m <;> exact hd
  have hp' : (s.setUart m u).phase = .uartTx n d := (State.setUart_phase m u s).trans hp
  have hg : IgnoresUart m fun s => uartTxStep n d s.turnTaken := fun s u =>
    (congrArg (uartTxStep n d) (State.setUart_turnTaken m u s).symm).trans (ignoresUart_uartTxStep hnm d _ u)
  exact hg.twoRuns s u (step_of_uartTx hd hp) (step_of_uartTx hd' hp')

/-- Settles O43: every operation on one transceiver, and the send to it, ignores the other. -/
theorem transceiversAreIndependent : Obligations.TransceiversAreIndependent := by
  unfold Obligations.TransceiversAreIndependent
  intro s u d
  have h01 : UartId.u0 ≠ .u1 := nofun
  exact ⟨fun _ hi => exec_twoRuns (n := .u0) h01 s u hi, fun _ hi => exec_twoRuns (n := .u1) h01.symm s u hi,
    step_twoRuns h01 s u, step_twoRuns h01.symm s u⟩

end Sys2Proof.Machine
end

section
/-! The rules of the memory and of the queues that speak of one step (20_memory.md R37, R40 to R42, R47): which
operation changes state, which end of a queue a step touches, and where a pending read can go. -/

namespace Sys2Proof.Machine

/-! ## Operations (R37) -/

/-- Settles O44: every input of the read multiplexer but those three answers without a side effect. -/
theorem otherReadsChangeNothing : Obligations.OtherReadsChangeNothing := by
  unfold Obligations.OtherReadsChangeNothing
  intro i s hi hfdata hu0 hu1
  cases i with
  | rdFdata => exact absurd rfl hfdata
  | rdU0Data => exact absurd rfl hu0
  | rdU1Data => exact absurd rfl hu1
  | rdU0Stat | rdU1Stat | rdLedctl | rdLedB | rdLedR | rdLedG | rdFaddr0 | rdFaddr1 | rdFaddr2 | rdUnmapped a =>
    exact ⟨_, rfl, isRespWord_respWord _⟩
  | _ => cases hi

/-- Merging the same field twice is merging it once (R57 item 4). -/
theorem mergeField_mergeField {m x : Word} (k sh : Nat) (p : Word) (hm : m.toNat = 2 ^ k - 1) (hx : x.toNat < 2 ^ k) :
    mergeField m sh x (mergeField m sh x p) = mergeField m sh x p := by
  rw [mergeField, mergeField_and_not_mask k sh p hm hx, ← mergeField]

theorem mergeByte0_mergeByte0 (d : Byte) (p : Word) : mergeByte0 d (mergeByte0 d p) = mergeByte0 d p :=
  mergeField_mergeField 8 0 p rfl (toNat_setWidth_lt d 32)

theorem mergeByte1_mergeByte1 (d : Byte) (p : Word) : mergeByte1 d (mergeByte1 d p) = mergeByte1 d p :=
  mergeField_mergeField 8 8 p rfl (toNat_setWidth_lt d 32)

theorem mergeNibble2_mergeNibble2 (d : Byte) (p : Word) : mergeNibble2 d (mergeNibble2 d p) = mergeNibble2 d p :=
  mergeField_mergeField 4 16 p rfl (toNat_setWidth_lt (d.extractLsb' 0 4) 32)

/-- Writing the selected pixel twice leaves what was written last (R9). -/
theorem State.setSelectedPixel_setSelectedPixel (p q : Pixel) (s : State) :
    (s.setSelectedPixel p).setSelectedPixel q = s.setSelectedPixel q := by
  simp [State.setSelectedPixel]

/-- A select of an index at most 249 leaves that index and a length above it (R76). -/
theorem execWrLedctlSelect_twice (v : Byte) (s : State) :
    ∃ t, execWrLedctlSelect v s = .next t ∧ execWrLedctlSelect v t = .next t := by
  by_cases hv : v.toNat < 250
  · refine ⟨_, by rw [execWrLedctlSelect, dif_pos hv], ?_⟩
    rw [execWrLedctlSelect, dif_pos hv]
    congr 2
    refine if_neg ?_
    split <;> simp only <;> omega
  · have hself : execWrLedctlSelect v s = .next s := by rw [execWrLedctlSelect, dif_neg hv]
    exact ⟨s, hself, hself⟩

/-- Settles O45: a select leaves the length above its index, a colour and a field of the cursor are overwritten by
themselves, and the other writes set constants or nothing. -/
theorem repeatedWriteChangesNothingMore : Obligations.RepeatedWriteChangesNothingMore := by
  unfold Obligations.RepeatedWriteChangesNothingMore
  intro i s hi hlatch hsend
  cases i with
  | wrLedctlLatch => exact absurd rfl hlatch
  | wrU0Data d => exact absurd rfl (hsend d).left
  | wrU1Data d => exact absurd rfl (hsend d).right
  | wrLedctlSelect v => exact execWrLedctlSelect_twice v s
  | wrLedB d | wrLedR d | wrLedG d =>
    refine ⟨_, rfl, congrArg Host.Outcome.next ?_⟩
    rw [State.selectedPixel_setSelectedPixel, State.setSelectedPixel_setSelectedPixel]
  | wrFaddr0 d => exact ⟨_, rfl, by simp only [exec, execWrFaddr0, mergeByte0_mergeByte0]⟩
  | wrFaddr1 d => exact ⟨_, rfl, by simp only [exec, execWrFaddr1, mergeByte1_mergeByte1]⟩
  | wrFaddr2 d => exact ⟨_, rfl, by simp only [exec, execWrFaddr2, mergeNibble2_mergeNibble2]⟩
  | wrLedctlReset | wrLedctlIgnore v | wrU0Stat d | wrU1Stat d | wrFdata d | wrUnmapped a d => exact ⟨_, rfl, rfl⟩
  | _ => cases hi

/-! ## What a serviced read keeps -/

/-- A serviced read leaves its answer waiting and touches no queue, no LED variable and no turn (R65, R67). -/
theorem exec_decodeRead_frame {q : Word} {s t : State} (h : exec (decodeRead q) s = .next t) :
    (∃ v, t.phase = .respPush v) ∧ t.wq = s.wq ∧ t.rq = s.rq ∧ t.rsp = s.rsp ∧ t.ledq = s.ledq ∧ t.buf = s.buf ∧
      t.pixelCount = s.pixelCount ∧ t.selectedIndex = s.selectedIndex ∧ t.overrun = s.overrun ∧ t.turns = s.turns := by
  obtain ⟨hpc, hsi, hbuf, -, hwq, hrq, hrsp, hledq, hover, -, hturns⟩ :=
    readMux_frame (decodeAddress (rreqAddress q)) s
  rw [eq_respond_of_exec_decodeRead h]
  exact ⟨⟨_, rfl⟩, hwq, hrq, hrsp, hledq, hbuf, hpc, hsi, hover, hturns⟩

/-! ## Where a step touches a queue (R40, R47) -/

/-- The queue stays, loses its oldest entry, or gains a newest one. -/
def FifoMove (l l' : List Word) : Prop := l' = l ∨ (∃ w, l = w :: l') ∨ ∃ w, l' = l ++ [w]

theorem FifoMove.stay {l l' : List Word} (h : l' = l) : FifoMove l l' := .inl h
theorem FifoMove.pop {l l' : List Word} {w : Word} (h : l = w :: l') : FifoMove l l' := .inr (.inl ⟨w, h⟩)
theorem FifoMove.push {l l' : List Word} {w : Word} (h : l' = l ++ [w]) : FifoMove l l' := .inr (.inr ⟨w, h⟩)

/-- The tail of a queue is the queue without its oldest entry, if it has one. -/
theorem tail_eq_self_or_eq_cons (l : List Word) : l.tail = l ∨ ∃ w, l = w :: l.tail := by
  cases l with
  | nil => exact .inl rfl
  | cons w ws => exact .inr ⟨w, rfl⟩

/-- The environment takes at most the oldest entry of `RSP` and of `LEDQ` (R75, R90). -/
theorem MoveEffect.outputs {m : Move} {s t : State} (h : MoveEffect m s t) :
    (t.rsp = s.rsp ∨ ∃ w, s.rsp = w :: t.rsp) ∧ (t.ledq = s.ledq ∨ ∃ w, s.ledq = w :: t.ledq) := by
  cases h with
  | popResponse => exact ⟨tail_eq_self_or_eq_cons s.rsp, .inl rfl⟩
  | popLed => exact ⟨.inl rfl, tail_eq_self_or_eq_cons s.ledq⟩
  | uart n u => simp
  | _ => exact ⟨.inl rfl, .inl rfl⟩

/-- The environment adds at most a newest entry to `WQ` and to `RQ` (R74). -/
theorem MoveEffect.inputs {m : Move} {s t : State} (h : MoveEffect m s t) :
    (t.wq = s.wq ∨ ∃ w, t.wq = s.wq ++ [w]) ∧ (t.rq = s.rq ∨ ∃ q, t.rq = s.rq ++ [q]) := by
  cases h with
  | pushWrite w => exact ⟨.inr ⟨w, rfl⟩, .inl rfl⟩
  | pushRead q => exact ⟨.inl rfl, .inr ⟨q, rfl⟩⟩
  | uart n u => simp
  | _ => exact ⟨.inl rfl, .inl rfl⟩

/-- Everything the send of a byte can do (R101, R102): hand it over, or hold. -/
theorem uartTxStep_cases (n : UartId) (b : Byte) (s : State) :
    (∃ u, uartTxStep n b s = { s.setUart n u with phase := .idle }) ∨ uartTxStep n b s = s := by
  cases hr : (s.uart n).txReady with
  | true => exact .inl ⟨_, uartTxStep_ready n b s hr⟩
  | false => exact .inr (uartTxStep_busy n b s hr)

/-- The dispatcher pops from the request queues and pushes into the other two (R62). -/
theorem dispatcherStep_fifo {s t : State} (h : dispatcherStep s = .next t) :
    FifoMove s.wq t.wq ∧ FifoMove s.rq t.rq ∧ FifoMove s.rsp t.rsp ∧ FifoMove s.ledq t.ledq := by
  rcases dispatcherStep_cases h with ⟨w, ws, -, hw, he⟩ | ⟨q, qs, -, -, hq, he⟩ | ⟨-, -, -, rfl⟩ | ⟨i, -, rfl⟩ |
    ⟨n, b, -, rfl⟩ | ⟨w, -, rfl⟩
  · obtain ⟨hwq, hrq, hrsp, hledq, -⟩ := (writeEffect_of_exec he).frame
    exact ⟨.pop (hw.trans (congrArg _ hwq.symm)), .stay hrq, .stay hrsp, .stay hledq⟩
  · obtain ⟨-, hwq, hrq, hrsp, hledq, -⟩ := exec_decodeRead_frame he
    exact ⟨.stay hwq, .pop (hq.trans (congrArg _ hrq.symm)), .stay hrsp, .stay hledq⟩
  · exact ⟨.stay rfl, .stay rfl, .stay rfl, .stay rfl⟩
  · rcases latchStep_cases i s with ⟨-, e⟩ | ⟨-, j, -, -, e⟩ | ⟨-, -, e⟩ <;> rw [e]
    · exact ⟨.stay rfl, .stay rfl, .stay rfl, .stay rfl⟩
    · exact ⟨.stay rfl, .stay rfl, .stay rfl, .push rfl⟩
    · exact ⟨.stay rfl, .stay rfl, .stay rfl, .push rfl⟩
  · rw [uartTxStep_frame]
    exact ⟨.stay rfl, .stay rfl, .stay rfl, .stay rfl⟩
  · rcases respPushStep_cases w s with ⟨-, e⟩ | e <;> rw [e]
    · exact ⟨.stay rfl, .stay rfl, .push rfl, .stay rfl⟩
    · exact ⟨.stay rfl, .stay rfl, .stay rfl, .stay rfl⟩

/-- Settles O11: the dispatcher and the environment work at opposite ends of each queue, one entry in a step. -/
theorem queuesAreFirstInFirstOut : Obligations.QueuesAreFirstInFirstOut := by
  unfold Obligations.QueuesAreFirstInFirstOut
  intro s t h
  rcases step_cases h with ⟨-, hd⟩ | ⟨m, -, rfl⟩
  · exact dispatcherStep_fifo (s := s.turnTaken) hd
  · have he := environmentMove_effect m s.turnTaken
    obtain ⟨hwq, hrq⟩ := he.inputs
    obtain ⟨hrsp, hledq⟩ := he.outputs
    exact ⟨hwq.imp_right .inr, hrq.imp_right .inr, hrsp.imp_right .inl, hledq.imp_right .inl⟩

/-! ## Where a pending read can go (R41, R42) -/

/-- A dispatcher step pops a read, or pushes or holds the answer that waits, or has nothing to do with reads. -/
theorem dispatcherStep_read_cases {s t : State} (h : dispatcherStep s = .next t) :
    (∃ q v, s.phase = .idle ∧ s.wq = [] ∧ s.rq = q :: t.rq ∧ t.rsp = s.rsp ∧ t.phase = .respPush v) ∨
    (∃ w, s.phase = .respPush w ∧ t.rq = s.rq ∧
      (t.rsp = s.rsp ++ [w] ∧ t.phase = .idle ∨ t.rsp = s.rsp ∧ t.phase = .respPush w)) ∨
    (t.rq = s.rq ∧ t.rsp = s.rsp ∧ ∀ w, s.phase ≠ .respPush w ∧ t.phase ≠ .respPush w) := by
  rcases dispatcherStep_cases h with ⟨w, ws, hp, hw, he⟩ | ⟨q, qs, hp, hw, hq, he⟩ | ⟨hp, -, -, rfl⟩ | ⟨i, hp, rfl⟩ |
    ⟨n, b, hp, rfl⟩ | ⟨w, hp, rfl⟩
  · have he := writeEffect_of_exec he
    obtain ⟨-, hrq, hrsp, -⟩ := he.frame
    exact .inr (.inr ⟨hrq, hrsp, fun v => ⟨by simp [hp], he.phase_ne_respPush hp v⟩⟩)
  · obtain ⟨⟨v, hv⟩, -, hrq, hrsp, -⟩ := exec_decodeRead_frame he
    exact .inl ⟨q, v, hp, hw, hrq ▸ hq, hrsp, hv⟩
  · exact .inr (.inr ⟨rfl, rfl, by simp [hp]⟩)
  · rcases latchStep_cases i s with ⟨-, e⟩ | ⟨-, j, -, -, e⟩ | ⟨-, -, e⟩ <;> rw [e]
      <;> exact .inr (.inr ⟨rfl, rfl, by simp [hp]⟩)
  · rcases uartTxStep_cases n b s with ⟨u, e⟩ | e <;> rw [e] <;> exact .inr (.inr (by simp [hp]))
  · rcases respPushStep_cases w s with ⟨-, e⟩ | e <;> rw [e]
    · exact .inr (.inl ⟨w, hp, rfl, .inl ⟨rfl, rfl⟩⟩)
    · exact .inr (.inl ⟨w, hp, rfl, .inr ⟨rfl, hp⟩⟩)

/-- Settles O9: the environment only extends `RQ`, and of the dispatcher's steps only the poll of a read shortens it. -/
theorem readsArePoppedOnlyWhenNoWriteIsPending : Obligations.ReadsArePoppedOnlyWhenNoWriteIsPending := by
  unfold Obligations.ReadsArePoppedOnlyWhenNoWriteIsPending
  intro s t h hlt
  rcases step_cases h with ⟨hd, h⟩ | ⟨m, -, rfl⟩
  · rcases dispatcherStep_read_cases h with ⟨q, v, hp, hw, hq, -⟩ | ⟨w, -, hrq, -⟩ | ⟨hrq, -⟩
    · exact ⟨hd, hp, hw, q, hq⟩
    · exact absurd (congrArg List.length hrq) (Nat.ne_of_lt hlt)
    · exact absurd (congrArg List.length hrq) (Nat.ne_of_lt hlt)
  · obtain ⟨-, hrq, -⟩ := (environmentMove_effect m s.turnTaken).queues
    exact absurd hlt (Nat.not_lt.mpr hrq.length_le)

theorem State.responsesWaiting_of_respPush {s : State} {w : Word} (h : s.phase = .respPush w) :
    s.responsesWaiting = 1 := by
  simp [State.responsesWaiting, h]

theorem State.responsesWaiting_eq_zero {s : State} (h : ∀ w, s.phase ≠ .respPush w) : s.responsesWaiting = 0 := by
  unfold State.responsesWaiting
  split
  case h_4 w hp => exact absurd hp (h w)
  all_goals rfl

theorem State.responsesWaiting_of_idle {s : State} (h : s.phase = .idle) : s.responsesWaiting = 0 :=
  State.responsesWaiting_eq_zero (by simp [h])

/-- A read goes from `RQ` to the phase and from there to `RSP`, one at a time. -/
theorem dispatcherStep_answers_each_read {s t : State} (h : dispatcherStep s = .next t) :
    t.rq.length + t.responsesWaiting + t.rsp.length = s.rq.length + s.responsesWaiting + s.rsp.length ∧
      (t.rsp = s.rsp ∨ ∃ w, s.phase = .respPush w ∧ t.rsp = s.rsp ++ [w] ∧ t.phase = .idle) ∧
      (t.rq.length < s.rq.length → ∃ w, t.phase = .respPush w) := by
  rcases dispatcherStep_read_cases h with ⟨q, v, hp, -, hq, hrsp, hp'⟩ |
    ⟨w, hp, hrq, ⟨hrsp, hp'⟩ | ⟨hrsp, hp'⟩⟩ | ⟨hrq, hrsp, hne⟩
  · refine ⟨?_, .inl hrsp, fun _ => ⟨v, hp'⟩⟩
    simp [State.responsesWaiting_of_idle hp, State.responsesWaiting_of_respPush hp', hq, hrsp]
  · refine ⟨?_, .inr ⟨w, hp, hrsp, hp'⟩, fun hlt => absurd hlt (by simp [hrq])⟩
    simp only [State.responsesWaiting_of_respPush hp, State.responsesWaiting_of_idle hp', hrq, hrsp,
      List.length_append, List.length_singleton]
    omega
  · refine ⟨?_, .inl hrsp, fun hlt => absurd hlt (by simp [hrq])⟩
    simp [State.responsesWaiting_of_respPush hp, State.responsesWaiting_of_respPush hp', hrq, hrsp]
  · refine ⟨?_, .inl hrsp, fun hlt => absurd hlt (by simp [hrq])⟩
    simp [State.responsesWaiting_eq_zero fun w => (hne w).left, State.responsesWaiting_eq_zero fun w => (hne w).right,
      hrq, hrsp]

/-- Settles O12: taking the turn touches neither a queue nor the phase. -/
theorem oneResponsePerRead : Obligations.OneResponsePerRead := by
  unfold Obligations.OneResponsePerRead
  intro s t hd h
  rw [step_of_dispatcherMoves hd] at h
  exact dispatcherStep_answers_each_read (s := s.turnTaken) h

/-! ## The words of a latch (R47, R80, R90) -/

theorem State.ledWords_eq_of_buf_eq {s t : State} (h : t.buf = s.buf) (n : Nat) : t.ledWords n = s.ledWords n := by
  rw [State.ledWords, h, State.ledWords]

/-- The words of the first `i + 1` pixels end with that of pixel `i`. -/
theorem State.ledWords_succ (s : State) (i : Fin 250) :
    s.ledWords (i.val + 1) = s.ledWords i.val ++ [ledWord s.buf[i]] := by
  simp [State.ledWords, List.take_succ_eq_append_getElem]

/-- What was popped from `LEDQ` and what it holds, together, are `before` and the words of the latch so far: those of
pixels `0 .. i-1` while it stands at `i`, all of them once it has ended. -/
def LatchProgress (before popped : List Word) (t : State) : Prop :=
  (t.phase = .idle ∧ popped ++ t.ledq = before ++ t.ledWords t.pixelCount.val) ∨
    ∃ j : Fin 250, j.val < t.pixelCount.val ∧ t.phase = .latchEmit j ∧ popped ++ t.ledq = before ++ t.ledWords j.val

/-- The emission step appends the word of the next pixel, and the latch ends after the last one (R80). -/
theorem latchStep_progress {s : State} {i : Fin 250} {before popped : List Word} (hi : i.val < s.pixelCount.val)
    (hp : s.phase = .latchEmit i) (hwords : popped ++ s.ledq = before ++ s.ledWords i.val) :
    s.ledq <+: (latchStep i s).ledq ∧ LatchProgress before popped (latchStep i s) := by
  have hnext : popped ++ (s.ledq ++ [ledWord s.buf[i]]) = before ++ s.ledWords (i.val + 1) := by
    rw [State.ledWords_succ, ← List.append_assoc, hwords, List.append_assoc]
  rcases latchStep_cases i s with ⟨-, e⟩ | ⟨-, j, hj, hlt, e⟩ | ⟨-, hge, e⟩ <;> rw [e]
  · exact ⟨List.prefix_rfl, .inr ⟨i, hi, hp, hwords⟩⟩
  · exact ⟨List.prefix_append _ _, .inr ⟨j, hlt, rfl, hj ▸ hnext⟩⟩
  · have hlast : s.pixelCount.val = i.val + 1 := Nat.le_antisymm hge hi
    exact ⟨List.prefix_append _ _, .inl ⟨rfl, hlast ▸ hnext⟩⟩

/-- Settles O22: the dispatcher emits the next word or holds, and the environment takes at most the oldest one. -/
theorem latchKeepsIndexOrderUnderBackPressure : Obligations.LatchKeepsIndexOrderUnderBackPressure := by
  unfold Obligations.LatchKeepsIndexOrderUnderBackPressure
  intro s t i before popped hi hp hwords h
  rcases step_cases h with ⟨-, hd⟩ | ⟨m, -, rfl⟩
  · have hp : s.turnTaken.phase = .latchEmit i := hp
    rw [dispatcherStep, hp] at hd
    cases hd
    obtain ⟨hpush, hprogress⟩ := latchStep_progress (s := s.turnTaken) hi hp hwords
    rw [latchStep_frame] at hpush hprogress ⊢
    exact ⟨rfl, rfl, rfl, popped, .inl ⟨rfl, hpush⟩, hprogress⟩
  · have he := environmentMove_effect m s.turnTaken
    generalize environmentMove m s.turnTaken = t at he
    obtain ⟨hpc, hsi, hbuf, -, hphase, -⟩ := he.frame
    have hi' : i.val < t.pixelCount.val := hpc ▸ hi
    have hp' : t.phase = .latchEmit i := hphase.trans hp
    have hw : t.ledWords i.val = s.ledWords i.val := State.ledWords_eq_of_buf_eq hbuf i.val
    refine ⟨hbuf, hpc, hsi, ?_⟩
    obtain ⟨-, hkept | ⟨w, hpop⟩⟩ := he.outputs
    · exact ⟨popped, .inl ⟨rfl, hkept ▸ List.prefix_rfl⟩, .inr ⟨i, hi', hp', by rw [hkept, hw]; exact hwords⟩⟩
    · rw [State.turnTaken_ledq] at hpop
      refine ⟨popped ++ [w], .inr ⟨w, hpop, rfl⟩, .inr ⟨i, hi', hp', ?_⟩⟩
      rw [List.append_assoc, List.singleton_append, ← hpop, hw, hwords]

end Sys2Proof.Machine
end

section
/-! The order in which pending requests are serviced, through runs (20_memory.md R41, R42, R48): writes before reads,
each to its completion, and reads only while no write is pending. -/

namespace Sys2Proof.Machine

/-! ## Runs -/

/-- The first step of a run. -/
theorem step_of_run_succ {n : Nat} {s t : State} (h : Host.Core.run Sys2Proof.core (n + 1) s = .next t) :
    ∃ u, step s = .next u ∧ Host.Core.run Sys2Proof.core n u = .next t := by
  simp only [Host.Core.run] at h
  split at h
  next u hu => exact ⟨u, hu, h⟩
  next => cases h
  next => cases h

/-- One run after another. -/
theorem run_add {m : Nat} (n : Nat) {s t : State} (h : Host.Core.run Sys2Proof.core m s = .next t) :
    Host.Core.run Sys2Proof.core (m + n) s = Host.Core.run Sys2Proof.core n t := by
  induction m generalizing s with
  | zero => cases h; rw [Nat.zero_add]
  | succ m ih =>
    obtain ⟨u, hstep, hrun⟩ := step_of_run_succ h
    rw [Nat.add_right_comm, run_succ (m + n) hstep, ih hrun]

/-- The dispatcher's turns are those before and those after some of them. -/
theorem State.dispatcherMovesFor.drop {m n : Nat} {s : State} (h : s.dispatcherMovesFor (m + n)) :
    (s.turnsTaken m).dispatcherMovesFor n := by
  obtain ⟨ho, hturn⟩ := h
  refine ⟨ho, fun k hk => ?_⟩
  have hm := hturn (m + k) (Nat.add_lt_add_left hk m)
  rwa [State.turnAt, ← Turns.takenFor_add] at hm

theorem State.dispatcherMoves_congr {s t : State} (h : s.dispatcherMoves) (ho : t.overrun = s.overrun)
    (ht : t.turns = s.turns) : t.dispatcherMoves := by
  simpa only [State.dispatcherMoves, State.nextTurn, ho, ht] using h

/-! ## The steps of a service -/

/-- Every operation completes (R111). -/
theorem exec_completes (i : Instr) (s : State) : ∃ t, exec i s = .next t := by
  cases i with
  | wrLedctlSelect v =>
    obtain ⟨t, ht, -⟩ := execWrLedctlSelect_twice v s
    exact ⟨t, ht⟩
  | _ => exact ⟨_, rfl⟩

/-- An idle dispatcher gives the write at the head of `WQ` its effect (R62, R64). -/
theorem exists_step_of_pending_write {s : State} {w : Word} {ws : List Word} (hd : s.dispatcherMoves)
    (hp : s.phase = .idle) (hw : s.wq = w :: ws) :
    ∃ t, step s = .next t ∧ WriteEffect w { s.turnTaken with wq := ws } t := by
  obtain ⟨t, ht⟩ := exec_completes (decodeWrite w) { s.turnTaken with wq := ws }
  exact ⟨t, (step_of_pending_write hd hp hw).trans ht, writeEffect_of_exec ht⟩

/-- With no write pending an idle dispatcher pops the read at the head of `RQ` and runs it (R62, R65). -/
theorem step_of_pending_read {s : State} {q : Word} {qs : List Word} (hd : s.dispatcherMoves) (hp : s.phase = .idle)
    (hw : s.wq = []) (hq : s.rq = q :: qs) : step s = exec (decodeRead q) { s.turnTaken with rq := qs } := by
  rw [step_of_dispatcherMoves hd]
  simp [dispatcherStep, poll, hp, hw, hq]

theorem step_of_respPush {s : State} {w : Word} (hd : s.dispatcherMoves) (hp : s.phase = .respPush w) :
    step s = .next (respPushStep w s.turnTaken) := by
  rw [step_of_dispatcherMoves hd]
  simp [dispatcherStep, hp]

theorem step_of_latchEmit {s : State} {i : Fin 250} (hd : s.dispatcherMoves) (hp : s.phase = .latchEmit i) :
    step s = .next (latchStep i s.turnTaken) := by
  rw [step_of_dispatcherMoves hd]
  simp [dispatcherStep, hp]

/-! ## Writes that neither latch nor send -/

/-- The write is none of those whose output waits for an external collaborator (R63). -/
def CompletesAtOnce (w : Word) : Prop :=
  wreqAddress w ≠ 0x00 ∧ wreqAddress w ≠ 0x08 ∧ ¬(wreqAddress w = 0x80 ∧ wreqData w = 0xFF)

theorem WriteEffect.phase_of_completesAtOnce {w : Word} {s t : State} (h : WriteEffect w s t) (hw : CompletesAtOnce w) :
    t.phase = s.phase := by
  obtain ⟨hu0, hu1, hlatch⟩ := hw
  cases h with
  | sendU0 ha => exact absurd ha hu0
  | sendU1 ha => exact absurd ha hu1
  | latch ha hv => exact absurd ⟨ha, BitVec.eq_of_toNat_eq hv⟩ hlatch
  | _ => rfl

/-- Such a write is serviced in one step. -/
theorem step_completes_write {s : State} {w : Word} {ws : List Word} (hd : s.dispatcherMoves) (hp : s.phase = .idle)
    (hw : s.wq = w :: ws) (hnow : CompletesAtOnce w) :
    ∃ t, step s = .next t ∧ t.wq = ws ∧ t.rq = s.rq ∧ t.rsp = s.rsp ∧ t.ledq = s.ledq ∧ t.phase = .idle ∧
      t.overrun = s.overrun ∧ t.startup = s.startup ∧ t.turns = s.turnTaken.turns := by
  obtain ⟨t, hstep, he⟩ := exists_step_of_pending_write hd hp hw
  obtain ⟨hwq, hrq, hrsp, hledq, hover, hst, hturns⟩ := he.frame
  exact ⟨t, hstep, hwq, hrq, hrsp, hledq, (he.phase_of_completesAtOnce hnow).trans hp, hover, hst, hturns⟩

/-- A queue of such writes is serviced in as many steps as it has entries. -/
theorem run_completes_writes (ws : List Word) {s : State} (hw : s.wq = ws) (hd : s.dispatcherMovesFor ws.length)
    (hp : s.phase = .idle) (hnow : ∀ w ∈ ws, CompletesAtOnce w) :
    ∃ t : State, Host.Core.run Sys2Proof.core ws.length s = .next t ∧
      t.wq = [] ∧ t.rq = s.rq ∧ t.rsp = s.rsp ∧ t.ledq = s.ledq ∧ t.phase = .idle := by
  induction ws generalizing s with
  | nil => exact ⟨s, rfl, hw, rfl, rfl, rfl, hp⟩
  | cons w ws ih =>
    obtain ⟨hd, hds⟩ := State.dispatcherMovesFor_succ.mp hd
    obtain ⟨hnow, hnows⟩ := List.forall_mem_cons.mp hnow
    obtain ⟨u, hstep, hwu, hrq, hrsp, hledq, hpu, hover, -, hturns⟩ := step_completes_write hd hp hw hnow
    obtain ⟨t, hrun, hwt, hrq', hrsp', hledq', hpt⟩ :=
      ih hwu (State.dispatcherMovesFor_congr hds hover hturns) hpu hnows
    exact ⟨t, (run_succ _ hstep).trans hrun, hwt, hrq'.trans hrq, hrsp'.trans hrsp, hledq'.trans hledq, hpt⟩

/-- Settles O10, by induction on the pending writes. -/
theorem pendingWritesAreServicedBeforeReads : Obligations.PendingWritesAreServicedBeforeReads := by
  unfold Obligations.PendingWritesAreServicedBeforeReads
  intro s hd hp hnow
  exact run_completes_writes s.wq rfl hd hp hnow

/-! ## Reads -/

/-- A read is popped in one step and its answer pushed in the next, if there is room (R65, R66). -/
theorem run_answers_read {s : State} {q : Word} {qs : List Word} (hd : s.dispatcherMovesFor 2) (hp : s.phase = .idle)
    (hw : s.wq = []) (hq : s.rq = q :: qs) (hroom : s.rsp.length < Config.rspDepth) :
    ∃ (t : State) (answer : Word), Host.Core.run Sys2Proof.core 2 s = .next t ∧
      t.rq = qs ∧ t.phase = .idle ∧ t.rsp = s.rsp ++ [answer] ∧ t.wq = [] ∧ t.ledq = s.ledq ∧ t.buf = s.buf ∧
      t.pixelCount = s.pixelCount ∧ t.selectedIndex = s.selectedIndex ∧ t.overrun = s.overrun ∧
      t.turns = (s.turnsTaken 2).turns := by
  obtain ⟨hd, hd'⟩ := State.dispatcherMovesFor_succ.mp hd
  obtain ⟨hd', -⟩ := State.dispatcherMovesFor_succ.mp hd'
  obtain ⟨u, hu⟩ := exec_completes (decodeRead q) { s.turnTaken with rq := qs }
  obtain ⟨⟨v, hv⟩, hwq, hrq, hrsp, hledq, hbuf, hpc, hsi, hover, hturns⟩ := exec_decodeRead_frame hu
  have hpush := step_of_respPush (State.dispatcherMoves_congr hd' hover hturns) hv
  rw [respPushStep_room v _ (by simpa [hrsp] using hroom)] at hpush
  exact ⟨_, v, (run_succ 1 ((step_of_pending_read hd hp hw hq).trans hu)).trans (run_succ 0 hpush), hrq, rfl,
    congrArg (· ++ [v]) hrsp, hwq.trans hw, hledq, hbuf, hpc, hsi, hover, congrArg Turns.taken hturns⟩

/-- A queue of reads is answered in two steps for each. -/
theorem run_answers_reads (qs : List Word) {s : State} (hq : s.rq = qs) (hd : s.dispatcherMovesFor (2 * qs.length))
    (hp : s.phase = .idle) (hw : s.wq = []) (hroom : s.rsp.length + qs.length ≤ Config.rspDepth) :
    ∃ (t : State) (answers : List Word), Host.Core.run Sys2Proof.core (2 * qs.length) s = .next t ∧
      t.rq = [] ∧ t.phase = .idle ∧ answers.length = qs.length ∧ t.rsp = s.rsp ++ answers ∧
      t.wq = [] ∧ t.ledq = s.ledq ∧ t.buf = s.buf ∧ t.pixelCount = s.pixelCount ∧
      t.selectedIndex = s.selectedIndex := by
  induction qs generalizing s with
  | nil => exact ⟨s, [], rfl, hq, hp, rfl, (List.append_nil _).symm, hw, rfl, rfl, rfl, rfl⟩
  | cons q qs ih =>
    have htwo : 2 * (q :: qs).length = 2 + 2 * qs.length := by rw [List.length_cons]; omega
    rw [List.length_cons] at hroom
    rw [htwo] at hd ⊢
    obtain ⟨u, a, hrun, hqu, hpu, hrsp, hwu, hledq, hbuf, hpc, hsi, hover, hturns⟩ :=
      run_answers_read (State.dispatcherMovesFor_mono hd (Nat.le_add_right 2 _)) hp hw hq (by omega)
    obtain ⟨t, as, hrun', hqt, hpt, hlen, hrsp', hwt, hledq', hbuf', hpc', hsi'⟩ :=
      ih hqu (State.dispatcherMovesFor_congr hd.drop hover hturns) hpu hwu
        (by rw [hrsp, List.length_append, List.length_singleton]; omega)
    exact ⟨t, a :: as, (run_add _ hrun).trans hrun', hqt, hpt, congrArg (· + 1) hlen, by simp [hrsp', hrsp], hwt,
      hledq'.trans hledq, hbuf'.trans hbuf, hpc'.trans hpc, hsi'.trans hsi⟩

/-- Settles O13, by induction on the pending reads. -/
theorem pendingReadsAreAllAnswered : Obligations.PendingReadsAreAllAnswered := by
  unfold Obligations.PendingReadsAreAllAnswered
  intro s hd hp hw hroom
  exact run_answers_reads s.rq rfl hd hp hw hroom

/-! ## Reads wait while writes keep coming -/

/-- A step that is no poll of an empty `WQ` pops no read, and pushes no response unless one was waiting (R48). -/
theorem step_keeps_reads_waiting {s t : State} (h : step s = .next t)
    (hpoll : s.dispatcherMoves → s.phase = .idle → s.wq ≠ []) :
    s.rq <+: t.rq ∧
      ((∀ w, s.phase ≠ .respPush w) → t.rsp <:+ s.rsp ∧ ∀ w, t.phase ≠ .respPush w) := by
  rcases step_cases h with ⟨hd, h⟩ | ⟨m, -, rfl⟩
  · rcases dispatcherStep_read_cases h with ⟨q, v, hp, hw, -⟩ | ⟨w, hp, hrq, -⟩ | ⟨hrq, hrsp, hne⟩
    · exact absurd hw (hpoll hd hp)
    · exact ⟨hrq ▸ List.prefix_rfl, fun hnone => absurd hp (hnone w)⟩
    · exact ⟨hrq ▸ List.prefix_rfl, fun _ => ⟨hrsp ▸ List.suffix_rfl, fun w => (hne w).right⟩⟩
  · have he := environmentMove_effect m s.turnTaken
    obtain ⟨-, hrq, hrsp, -⟩ := he.queues
    obtain ⟨-, -, -, -, hphase, -⟩ := he.frame
    exact ⟨hrq, fun hnone => ⟨hrsp, fun w hw => hnone w (hphase.symm.trans hw)⟩⟩

/-- While every poll of a run finds a write pending, no read is serviced (R48). -/
theorem run_keeps_reads_waiting (n : Nat) {s t : State}
    (hpoll : ∀ k < n, ∀ u : State, Host.Core.run Sys2Proof.core k s = .next u → u.dispatcherMoves → u.phase = .idle →
      u.wq ≠ [])
    (h : Host.Core.run Sys2Proof.core n s = .next t) :
    s.rq <+: t.rq ∧ ((∀ w, s.phase ≠ .respPush w) → t.rsp <:+ s.rsp) := by
  induction n generalizing s with
  | zero => cases h; exact ⟨List.prefix_rfl, fun _ => List.suffix_rfl⟩
  | succ n ih =>
    obtain ⟨u, hstep, hrun⟩ := step_of_run_succ h
    obtain ⟨hrq, hrsp⟩ := step_keeps_reads_waiting hstep (hpoll 0 n.succ_pos s rfl)
    have hlater (k : Nat) (hk : k < n) (v : State) (hv : Host.Core.run Sys2Proof.core k u = .next v) :=
      hpoll (k + 1) (Nat.succ_lt_succ hk) v ((run_succ k hstep).trans hv)
    obtain ⟨hrq', hrsp'⟩ := ih hlater hrun
    refine ⟨hrq.trans hrq', fun hnone => ?_⟩
    obtain ⟨hsuffix, hnone'⟩ := hrsp hnone
    exact (hrsp' hnone').trans hsuffix

/-- A released producer's push and the dispatcher's step after it leave an idle dispatcher with no write pending as they
found it, the reads untouched. -/
theorem run_push_and_service {s : State} {w : Word} (ho : s.overrun = false) (hp : s.phase = .idle) (hw : s.wq = [])
    (hrel : s.startup.masterReleased = true) (hpush : s.turnAt 0 = .environment (.pushWrite w))
    (hservice : s.turnAt 1 = .dispatcher) (hnow : CompletesAtOnce w) :
    ∃ t : State, Host.Core.run Sys2Proof.core 2 s = .next t ∧ t.wq = [] ∧ t.rq = s.rq ∧ t.rsp = s.rsp ∧
      t.phase = .idle ∧ t.overrun = s.overrun ∧ t.startup = s.startup ∧ t.turns = (s.turnsTaken 2).turns := by
  have hroom : s.turnTaken.wq.length < Config.wqDepth := by
    rw [State.turnTaken_wq, hw]
    exact Nat.succ_pos _
  have hstep := step_of_environmentMoves (s := s) (m := .pushWrite w) ⟨ho, hpush⟩
  rw [environmentMove, pushWriteMove_room (s := s.turnTaken) hrel hroom] at hstep
  obtain ⟨t, hstep', hwq, hrq, hrsp, -, hpt, hover, hst, hturns⟩ :=
    step_completes_write (s := { s.turnTaken with wq := s.turnTaken.wq ++ [w] }) (w := w) (ws := []) ⟨ho, hservice⟩ hp
      (congrArg (· ++ [w]) hw) hnow
  exact ⟨t, (run_succ 1 hstep).trans (run_succ 0 hstep'), hwq, hrq, hrsp, hpt, hover, hst, hturns⟩

/-- A producer that pushes a write before each poll keeps the reads waiting (R48, R135). -/
theorem run_starves_reads (n : Nat) {s : State} {ws : Nat → Word} (ho : s.overrun = false) (hp : s.phase = .idle)
    (hw : s.wq = []) (hrel : s.startup.masterReleased = true)
    (hturns : ∀ k < n, s.turnAt (2 * k) = .environment (.pushWrite (ws k)) ∧ s.turnAt (2 * k + 1) = .dispatcher ∧
      CompletesAtOnce (ws k)) :
    ∃ t : State, Host.Core.run Sys2Proof.core (2 * n) s = .next t ∧ t.rq = s.rq ∧ t.rsp = s.rsp ∧ t.wq = [] ∧
      t.phase = .idle := by
  induction n generalizing s ws with
  | zero => exact ⟨s, rfl, rfl, rfl, hw, hp⟩
  | succ n ih =>
    obtain ⟨hpush, hservice, hnow⟩ := hturns 0 n.succ_pos
    obtain ⟨u, hrun, hwu, hrq, hrsp, hpu, hover, hst, hturn⟩ := run_push_and_service ho hp hw hrel hpush hservice hnow
    have hlater (k : Nat) : u.turnAt k = s.turnAt (k + 2) := congrArg (fun v => (v.takenFor k).next) hturn
    obtain ⟨t, hrun', hrq', hrsp', hwt, hpt⟩ := ih (s := u) (ws := fun k => ws (k + 1)) (hover.trans ho) hpu hwu
      (hst ▸ hrel) fun k hk => by rw [hlater, hlater]; exact hturns (k + 1) (Nat.succ_lt_succ hk)
    refine ⟨t, ?_, hrq'.trans hrq, hrsp'.trans hrsp, hwt, hpt⟩
    rw [Nat.mul_succ, Nat.add_comm, run_add _ hrun, hrun']

/-- Settles O56: no step but the poll of an empty `WQ` services a read, and a push before each poll leaves none. -/
theorem readsWaitWhileWritesKeepComing : Obligations.ReadsWaitWhileWritesKeepComing := by
  unfold Obligations.ReadsWaitWhileWritesKeepComing
  exact ⟨fun n _ _ hpoll h => run_keeps_reads_waiting n hpoll h,
    fun n _ _ ho hp hw hrel hturns => run_starves_reads n ho hp hw hrel hturns⟩

end Sys2Proof.Machine
end

section
/-! Pending writes whose service takes several steps (20_memory.md R41, 40_dispatch_and_decode.md R63): a latch emits
its words and a send hands over its byte before the next request is popped. -/

namespace Sys2Proof.Machine

/-! ## A latch (R79, R80) -/

theorem State.length_ledWords_le (s : State) (n : Nat) : (s.ledWords n).length ≤ n := by
  rw [State.ledWords, List.length_map]
  exact List.length_take_le _ _

/-- The words of the pixels from `i` on begin with that of pixel `i`. -/
theorem State.ledWords_drop (s : State) (i : Fin 250) {n : Nat} (hi : i.val < n) :
    (s.ledWords n).drop i.val = ledWord s.buf[i] :: (s.ledWords n).drop (i.val + 1) := by
  have hlen : i.val < (s.ledWords n).length := by simp [State.ledWords, hi]
  rw [List.drop_eq_getElem_cons hlen]
  simp [State.ledWords]

theorem State.ledWords_drop_length (s : State) (n : Nat) : (s.ledWords n).drop n = [] :=
  List.drop_eq_nil_of_le (s.length_ledWords_le n)

/-- With room for them, the words of the pixels from `i` on are emitted in one step each, and the latch ends. -/
theorem run_of_latchEmit (k : Nat) {s : State} {i : Fin 250} (hd : s.dispatcherMovesFor k) (hp : s.phase = .latchEmit i)
    (hk : s.pixelCount.val = i.val + k) (hpos : 0 < k) (hroom : s.ledq.length + k ≤ Config.ledqDepth) :
    Host.Core.run Sys2Proof.core k s =
      .next { s.turnsTaken k with
        ledq := s.ledq ++ (s.ledWords s.pixelCount.val).drop i.val
        phase := .idle } := by
  induction k generalizing s i with
  | zero => exact absurd hpos (Nat.lt_irrefl 0)
  | succ k ih =>
    obtain ⟨hd, hds⟩ := State.dispatcherMovesFor_succ.mp hd
    have hstep := step_of_latchEmit hd hp
    rw [s.ledWords_drop i (by omega)]
    rcases latchStep_cases i s.turnTaken with ⟨hfull, -⟩ | ⟨-, j, hj, hlt, e⟩ | ⟨-, hge, e⟩
    · rw [State.turnTaken_ledq] at hfull
      omega
    · rw [State.turnTaken_pixelCount] at hlt
      have hrest := ih (s := { s.turnTaken with ledq := s.ledq ++ [ledWord s.buf[i]], phase := .latchEmit j }) hds rfl
        (hk.trans (by omega)) (by omega) (by simp only [List.length_append, List.length_singleton]; omega)
      have hwords : s.ledq ++ [ledWord s.buf[i]] ++ (s.ledWords s.pixelCount.val).drop j.val =
          s.ledq ++ ledWord s.buf[i] :: (s.ledWords s.pixelCount.val).drop (i.val + 1) := by
        rw [hj, List.append_assoc, List.singleton_append]
      rw [← hwords]
      exact (run_succ k (hstep.trans (congrArg _ e))).trans hrest
    · rw [State.turnTaken_pixelCount] at hge
      obtain rfl : k = 0 := by omega
      rw [← hk, State.ledWords_drop_length]
      exact run_succ 0 (hstep.trans (congrArg _ e))

/-! ## The completion of a write (R63) -/

/-- Both transceivers accept a byte. -/
def State.uartsReady (s : State) : Prop := s.uart0.txReady = true ∧ s.uart1.txReady = true

theorem State.uartsReady.uart {s : State} (h : s.uartsReady) (n : UartId) : (s.uart n).txReady = true := by
  cases n with
  | u0 => exact h.left
  | u1 => exact h.right

/-- A write touches no transceiver: a send only leaves its byte to be handed over (R101, R102). -/
theorem WriteEffect.uarts {w : Word} {s t : State} (h : WriteEffect w s t) : t.uart0 = s.uart0 ∧ t.uart1 = s.uart1 := by
  cases h <;> exact ⟨rfl, rfl⟩

/-- A write serviced by an idle dispatcher leaves it idle, or with a byte to send, or, if it is a latch, with the first
pixel to emit. -/
theorem WriteEffect.phase_cases {w : Word} {s t : State} (h : WriteEffect w s t) :
    t.phase = s.phase ∨ (∃ n b, t.phase = .uartTx n b) ∨ (t.phase = .latchEmit 0 ∧ decodeWrite w = .wrLedctlLatch) := by
  cases h with
  | sendU0 | sendU1 => exact .inr (.inl ⟨_, _, rfl⟩)
  | latch ha hv =>
    refine .inr (.inr ⟨rfl, ?_⟩)
    rw [decodeWrite, ha]
    exact decodeLedctl_latch hv
  | _ => exact .inl rfl

/-- A bound on the logical length, and on every length a select sets, bounds the length after a write (R76, R78). -/
theorem WriteEffect.pixelCount_bounds {w : Word} {s t : State} {c : Nat} (h : WriteEffect w s t)
    (hpos : 1 ≤ s.pixelCount.val) (hle : s.pixelCount.val ≤ c)
    (hselect : wreqAddress w = 0x80 → (wreqData w).toNat ≤ 249 → (wreqData w).toNat + 1 ≤ c) :
    1 ≤ t.pixelCount.val ∧ t.pixelCount.val ≤ c := by
  cases h with
  | select i l ha hi hl =>
    have hc := hselect ha (by omega)
    simp only
    omega
  | ledReset => exact ⟨Nat.le_refl 1, hpos.trans hle⟩
  | _ => exact ⟨hpos, hle⟩

/-- The words the write `w` pushes into `LEDQ` are at most so many, `c` being a bound on the logical length. -/
def ledqDemand (c : Nat) (w : Word) : Nat := if decodeWrite w = .wrLedctlLatch then c else 0

/-- What is left of a write's service after its first step takes at most `c` steps more, and changes nothing but `LEDQ`,
by the words of a latch, and a transceiver's transmit path. -/
theorem run_completes_service {s : State} {c : Nat} {w : Word} (hd : s.dispatcherMovesFor c)
    (hpos : 1 ≤ s.pixelCount.val) (hle : s.pixelCount.val ≤ c)
    (hp : s.phase = .idle ∨ (∃ n b, s.phase = .uartTx n b) ∨ (s.phase = .latchEmit 0 ∧ decodeWrite w = .wrLedctlLatch))
    (hroom : s.ledq.length + ledqDemand c w ≤ Config.ledqDepth) (hready : s.uartsReady) :
    ∃ (n : Nat) (t : State), n ≤ c ∧ Host.Core.run Sys2Proof.core n s = .next t ∧
      t = { s.turnsTaken n with phase := .idle, ledq := t.ledq, uart0 := t.uart0, uart1 := t.uart1 } ∧
      t.ledq.length ≤ s.ledq.length + ledqDemand c w ∧ t.uartsReady := by
  rcases hp with hp | ⟨n, b, hp⟩ | ⟨hp, hlatch⟩
  · exact ⟨0, s, Nat.zero_le c, rfl, by rw [← hp]; rfl, Nat.le_add_right _ _, hready⟩
  · obtain ⟨hd, -⟩ := State.dispatcherMovesFor_succ.mp (State.dispatcherMovesFor_mono hd (hpos.trans hle))
    have hstep := step_of_uartTx hd hp
    have hn := hready.uart n
    rw [uartTxStep_ready n b s.turnTaken hn] at hstep
    refine ⟨1, _, hpos.trans hle, run_succ 0 hstep, ?_⟩
    cases n <;> exact ⟨rfl, Nat.le_add_right _ _, hready⟩
  · rw [ledqDemand, if_pos hlatch] at hroom ⊢
    have hrun := run_of_latchEmit s.pixelCount.val (State.dispatcherMovesFor_mono hd hle) hp (Nat.zero_add _).symm hpos
      (by omega)
    refine ⟨_, _, hle, hrun, rfl, ?_, hready⟩
    rw [List.length_append]
    exact Nat.add_le_add_left ((List.drop_sublist _ _).length_le.trans ((s.length_ledWords_le _).trans hle)) _

/-- The write at the head of `WQ` is serviced to its completion in at most `1 + c` steps (R63). -/
theorem run_completes_write {s : State} {c : Nat} {w : Word} {ws : List Word} (hd : s.dispatcherMovesFor (c + 1))
    (hp : s.phase = .idle) (hw : s.wq = w :: ws) (hpos : 1 ≤ s.pixelCount.val) (hle : s.pixelCount.val ≤ c)
    (hselect : wreqAddress w = 0x80 → (wreqData w).toNat ≤ 249 → (wreqData w).toNat + 1 ≤ c)
    (hroom : s.ledq.length + ledqDemand c w ≤ Config.ledqDepth) (hready : s.uartsReady) :
    ∃ (n : Nat) (t : State), n ≤ c + 1 ∧ Host.Core.run Sys2Proof.core n s = .next t ∧
      t.wq = ws ∧ t.rq = s.rq ∧ t.rsp = s.rsp ∧ t.phase = .idle ∧ (1 ≤ t.pixelCount.val ∧ t.pixelCount.val ≤ c) ∧
      t.ledq.length ≤ s.ledq.length + ledqDemand c w ∧ t.uartsReady ∧ t.overrun = s.overrun ∧
      t.turns = (s.turnsTaken n).turns := by
  obtain ⟨hd, hds⟩ := State.dispatcherMovesFor_succ.mp hd
  obtain ⟨u, hstep, he⟩ := exists_step_of_pending_write hd hp hw
  obtain ⟨hwq, hrq, hrsp, hledq, hover, -, hturns⟩ := he.frame
  obtain ⟨hu0, hu1⟩ := he.uarts
  have hbounds := he.pixelCount_bounds hpos hle hselect
  have hledq : s.ledq = u.ledq := hledq.symm
  rw [hledq] at hroom ⊢
  obtain ⟨n, t, hn, hrun, ht, hlen, hready⟩ := run_completes_service
    (State.dispatcherMovesFor_congr hds hover hturns) hbounds.left hbounds.right
    (he.phase_cases.imp_left fun e => e.trans hp) hroom ⟨hu0 ▸ hready.left, hu1 ▸ hready.right⟩
  refine ⟨n + 1, t, Nat.succ_le_succ hn, (run_succ n hstep).trans hrun, ?_⟩
  rw [ht]
  exact ⟨hwq, hrq, hrsp, rfl, hbounds, hlen, hready, hover, congrArg (Turns.takenFor n) hturns⟩

/-! ## All pending writes -/

/-- The premises of O55, kept as a state's pending writes are serviced: `c` bounds the logical length now and after
every pending select, there is room for `c` words for each pending latch, and nothing holds a send. -/
structure State.Provisioned (c : Nat) (s : State) : Prop where
  turns : s.dispatcherMovesFor (s.wq.length * (1 + c))
  idle : s.phase = .idle
  pos : 1 ≤ s.pixelCount.val
  le : s.pixelCount.val ≤ c
  selects : ∀ w ∈ s.wq, wreqAddress w = 0x80 → (wreqData w).toNat ≤ 249 → (wreqData w).toNat + 1 ≤ c
  room : s.ledq.length + c * (s.wq.filter fun w => decodeWrite w = .wrLedctlLatch).length ≤ Config.ledqDepth
  ready : s.uartsReady

/-- The demand of a queue of writes on `LEDQ` is that of its head and that of the rest. -/
theorem mul_length_filter_latch_cons (c : Nat) (w : Word) (ws : List Word) :
    c * ((w :: ws).filter fun w => decodeWrite w = .wrLedctlLatch).length =
      ledqDemand c w + c * (ws.filter fun w => decodeWrite w = .wrLedctlLatch).length := by
  by_cases hw : decodeWrite w = .wrLedctlLatch
  · simp [ledqDemand, hw, Nat.mul_add, Nat.add_comm]
  · simp [ledqDemand, hw]

/-- The write at the head of `WQ` is serviced to its completion in at most `1 + c` steps, and what the rest of the queue
needs is still there. -/
theorem State.Provisioned.run_services_head {c : Nat} {s : State} {w : Word} {ws : List Word} (h : s.Provisioned c)
    (hw : s.wq = w :: ws) :
    ∃ (n : Nat) (t : State), n ≤ 1 + c ∧ Host.Core.run Sys2Proof.core n s = .next t ∧ t.Provisioned c ∧
      t.wq = ws ∧ t.rq = s.rq ∧ t.rsp = s.rsp := by
  obtain ⟨hturns, hp, hpos, hle, hselects, hroom, hready⟩ := h
  rw [hw, List.length_cons, Nat.succ_mul, Nat.add_comm] at hturns
  rw [hw, mul_length_filter_latch_cons, ← Nat.add_assoc] at hroom
  rw [hw] at hselects
  obtain ⟨hselect, hselects⟩ := List.forall_mem_cons.mp hselects
  have hservice := Nat.add_comm 1 c ▸ State.dispatcherMovesFor_mono hturns (Nat.le_add_right (1 + c) _)
  obtain ⟨n, t, hn, hrun, hwt, hrq, hrsp, hpt, ⟨hpos, hle⟩, hlen, hready, hover, hturn⟩ :=
    run_completes_write hservice hp hw hpos hle hselect (Nat.le_of_add_right_le hroom) hready
  have hn : n ≤ 1 + c := Nat.add_comm c 1 ▸ hn
  have hrest := State.dispatcherMovesFor_mono hturns (Nat.add_le_add_right hn _)
  refine ⟨n, t, hn, hrun, ⟨?_, hpt, hpos, hle, hwt ▸ hselects, ?_, hready⟩, hwt, hrq, hrsp⟩
  · rw [hwt]
    exact State.dispatcherMovesFor_congr hrest.drop hover hturn
  · rw [hwt]
    exact (Nat.add_le_add_right hlen _).trans hroom

/-- A queue of writes is serviced to its completion, each write in at most `1 + c` steps. -/
theorem State.Provisioned.run_services_all (ws : List Word) {c : Nat} {s : State} (h : s.Provisioned c)
    (hw : s.wq = ws) :
    ∃ (n : Nat) (t : State), n ≤ ws.length * (1 + c) ∧ Host.Core.run Sys2Proof.core n s = .next t ∧
      t.wq = [] ∧ t.rq = s.rq ∧ t.rsp = s.rsp ∧ t.phase = .idle := by
  induction ws generalizing s with
  | nil => exact ⟨0, s, Nat.zero_le _, rfl, hw, rfl, rfl, h.idle⟩
  | cons w ws ih =>
    obtain ⟨m, u, hm, hrun, hu, hwu, hrq, hrsp⟩ := h.run_services_head hw
    obtain ⟨n, t, hn, hrun', hwt, hrq', hrsp', hpt⟩ := ih hu hwu
    refine ⟨m + n, t, ?_, (run_add n hrun).trans hrun', hwt, hrq'.trans hrq, hrsp'.trans hrsp, hpt⟩
    rw [List.length_cons, Nat.succ_mul, Nat.add_comm]
    exact Nat.add_le_add hn hm

/-- Settles O55, by induction on the pending writes. -/
theorem allPendingWritesAreServicedBeforeReads : Obligations.AllPendingWritesAreServicedBeforeReads := by
  unfold Obligations.AllPendingWritesAreServicedBeforeReads
  intro s c hd hp hpos hle hselects hroom hu0 hu1
  exact State.Provisioned.run_services_all s.wq ⟨hd, hp, hpos, hle, hselects, hroom, hu0, hu1⟩ rfl

end Sys2Proof.Machine
end

section
/-! Decoding and encoding of the request words (30_encoding.md R49 to R60, 40_dispatch_and_decode.md R68): the two undo
each other but for the ignored bits, and each row of the operation map. -/

namespace Sys2Proof

/-! ## From an operation to its word and back -/

/-- Settles O1, operation by operation. -/
theorem decodeEncodeRoundTrip : Obligations.DecodeEncodeRoundTrip := by
  unfold Obligations.DecodeEncodeRoundTrip
  intro i
  cases i with
  | wrU0Data d => exact Laws.RoundTrip.wrU0Data d
  | wrU0Stat d => exact Laws.RoundTrip.wrU0Stat d
  | wrU1Data d => exact Laws.RoundTrip.wrU1Data d
  | wrU1Stat d => exact Laws.RoundTrip.wrU1Stat d
  | wrLedctlReset => exact Laws.RoundTrip.wrLedctlReset
  | wrLedctlLatch => exact Laws.RoundTrip.wrLedctlLatch
  | wrLedctlIgnore v => exact Laws.RoundTrip.wrLedctlIgnore v
  | wrLedctlSelect v => exact Laws.RoundTrip.wrLedctlSelect v
  | wrLedB d => exact Laws.RoundTrip.wrLedB d
  | wrLedR d => exact Laws.RoundTrip.wrLedR d
  | wrLedG d => exact Laws.RoundTrip.wrLedG d
  | wrFdata d => exact Laws.RoundTrip.wrFdata d
  | wrFaddr0 d => exact Laws.RoundTrip.wrFaddr0 d
  | wrFaddr1 d => exact Laws.RoundTrip.wrFaddr1 d
  | wrFaddr2 d => exact Laws.RoundTrip.wrFaddr2 d
  | wrUnmapped a d => exact Laws.RoundTrip.wrUnmapped a d
  | rdU0Data => exact Laws.RoundTrip.rdU0Data
  | rdU0Stat => exact Laws.RoundTrip.rdU0Stat
  | rdU1Data => exact Laws.RoundTrip.rdU1Data
  | rdU1Stat => exact Laws.RoundTrip.rdU1Stat
  | rdLedctl => exact Laws.RoundTrip.rdLedctl
  | rdLedB => exact Laws.RoundTrip.rdLedB
  | rdLedR => exact Laws.RoundTrip.rdLedR
  | rdLedG => exact Laws.RoundTrip.rdLedG
  | rdFdata => exact Laws.RoundTrip.rdFdata
  | rdFaddr0 => exact Laws.RoundTrip.rdFaddr0
  | rdFaddr1 => exact Laws.RoundTrip.rdFaddr1
  | rdFaddr2 => exact Laws.RoundTrip.rdFaddr2
  | rdUnmapped a => exact Laws.RoundTrip.rdUnmapped a

/-! ## From a word to its operation and back -/

/-- A byte put above the lowest `k` bits adds its multiple of `2 ^ k`. -/
theorem toNat_byte_shiftLeft_or (x : Byte) {k : Nat} {y : Word} (hk : k + 8 ≤ 32) (hy : y.toNat < 2 ^ k) :
    (x.setWidth 32 <<< k ||| y).toNat = x.toNat * 2 ^ k + y.toNat := by
  have hx : x.toNat <<< k < 2 ^ 32 := by
    calc x.toNat <<< k = x.toNat * 2 ^ k := Nat.shiftLeft_eq _ _
      _ < 2 ^ 8 * 2 ^ k := Nat.mul_lt_mul_of_pos_right x.isLt (Nat.two_pow_pos k)
      _ = 2 ^ (k + 8) := by rw [Nat.pow_add, Nat.mul_comm]
      _ ≤ 2 ^ 32 := Nat.pow_le_pow_right (by decide) hk
  rw [BitVec.toNat_or, BitVec.toNat_shiftLeft, BitVec.toNat_setWidth_of_le (by decide), Nat.mod_eq_of_lt hx,
    ← Nat.shiftLeft_add_eq_or_of_lt hy, Nat.shiftLeft_eq]

theorem toNat_byte_shiftLeft (x : Byte) {k : Nat} (hk : k + 8 ≤ 32) :
    (x.setWidth 32 <<< k).toNat = x.toNat * 2 ^ k := by
  simpa using toNat_byte_shiftLeft_or x (y := 0) hk (Nat.two_pow_pos k)

theorem toNat_wreqWord (a d : Byte) : (wreqWord a d).toNat = a.toNat * 2 ^ 8 + d.toNat := by
  have hd : (d.setWidth 32 <<< 0 : Word).toNat = d.toNat := by
    rw [toNat_byte_shiftLeft d (by decide), Nat.pow_zero, Nat.mul_one]
  rw [wreqWord, Config.wrAddrLo, Config.wrDataLo, toNat_byte_shiftLeft_or a (by decide) (hd ▸ d.isLt), hd]

theorem toNat_rreqWord (a : Byte) : (rreqWord a).toNat = a.toNat := by
  rw [rreqWord, Config.rdAddrLo, toNat_byte_shiftLeft a (by decide), Nat.pow_zero, Nat.mul_one]

/-- A mask of the lowest `k` bits keeps the remainder by `2 ^ k`. -/
theorem toNat_and_lowMask (w : Word) {m : Word} {k : Nat} (hm : m.toNat = 2 ^ k - 1) :
    (w &&& m).toNat = w.toNat % 2 ^ k := by
  rw [BitVec.toNat_and, hm, Nat.and_two_pow_sub_one_eq_mod]

/-- A WREQ word made again from its two fields has lost bits 31:16 and no other (R50). -/
theorem wreqWord_wreqAddress_wreqData (w : Word) : wreqWord (wreqAddress w) (wreqData w) = w &&& 0x0000FFFF := by
  apply BitVec.eq_of_toNat_eq
  rw [toNat_wreqWord, toNat_and_lowMask w (k := 16) rfl]
  simp only [wreqAddress, wreqData, Config.wrAddrLo, Config.wrDataLo, BitVec.extractLsb'_toNat,
    Nat.shiftRight_eq_div_pow]
  omega

/-- An RREQ word made again from its address field has lost bits 31:8 and no other (R51). -/
theorem rreqWord_rreqAddress (q : Word) : rreqWord (rreqAddress q) = q &&& 0x000000FF := by
  apply BitVec.eq_of_toNat_eq
  rw [toNat_rreqWord, toNat_and_lowMask q (k := 8) rfl, rreqAddress, BitVec.extractLsb'_toNat]
  rfl

/-- The address decoder answers `unmapped` for the addresses outside the map alone (R54, R68). -/
theorem decodeAddress_eq_unmapped {a : Byte} : decodeAddress a = .unmapped ↔ a ∉ mappedAddresses := by
  have mapped : ∀ a ∈ mappedAddresses, decodeAddress a ≠ .unmapped := by decide
  exact ⟨fun h ha => mapped a ha h, decodeAddress_unmapped⟩

/-- A write to `LEDCTL` is an operation whose data condition `v` meets, and whose word carries `v` (R56). -/
theorem decodeLedctl_wellFormed_encode (v : Byte) :
    (decodeLedctl v).wellFormed = true ∧ encode (decodeLedctl v) = wreqWord 0x80 v := by
  have hlt := v.isLt
  unfold decodeLedctl
  split_ifs with hreset hlatch hignore
  · exact ⟨rfl, by rw [hreset]; rfl⟩
  · exact ⟨rfl, by rw [hlatch]; rfl⟩
  · have hne254 : v.toNat ≠ 254 := fun h => hreset (BitVec.eq_of_toNat_eq h)
    have hne255 : v.toNat ≠ 255 := fun h => hlatch (BitVec.eq_of_toNat_eq h)
    exact ⟨decide_eq_true (by omega), rfl⟩
  · exact ⟨decide_eq_true (by omega), rfl⟩

/-- A write request is a well-formed operation, and the operation's word carries the request's address and data. -/
theorem decodeWriteAt_wellFormed_encode (a d : Byte) :
    (decodeWriteAt a d).wellFormed = true ∧ encode (decodeWriteAt a d) = wreqWord a d := by
  have ha {b : Byte} := eq_of_address_decodeAddress (a := a) (b := b)
  unfold decodeWriteAt
  cases hd : decodeAddress a <;> simp only [hd] at ha ⊢
  case unmapped => exact ⟨decide_eq_true (decodeAddress_eq_unmapped.mp hd), rfl⟩
  case ledctl => exact ha rfl ▸ decodeLedctl_wellFormed_encode d
  all_goals exact ⟨rfl, by rw [ha rfl]; rfl⟩

/-- A read request is a well-formed operation, and the operation's word carries the request's address. -/
theorem decodeReadAt_wellFormed_encode (a : Byte) :
    (decodeReadAt a).wellFormed = true ∧ encode (decodeReadAt a) = rreqWord a := by
  have ha {b : Byte} := eq_of_address_decodeAddress (a := a) (b := b)
  unfold decodeReadAt
  cases hd : decodeAddress a <;> simp only [hd] at ha ⊢
  case unmapped => exact ⟨decide_eq_true (decodeAddress_eq_unmapped.mp hd), rfl⟩
  all_goals exact ⟨rfl, by rw [ha rfl]; rfl⟩

/-- Settles O2: a word's operation carries the word's fields, and the word of those fields lacks only the ignored
bits. -/
theorem everyWordIsOneOperation : Obligations.EveryWordIsOneOperation := by
  unfold Obligations.EveryWordIsOneOperation
  intro w
  obtain ⟨hwrite, ewrite⟩ := decodeWriteAt_wellFormed_encode (wreqAddress w) (wreqData w)
  obtain ⟨hread, eread⟩ := decodeReadAt_wellFormed_encode (rreqAddress w)
  exact ⟨⟨hwrite, decodeWrite_channel w, ewrite.trans (wreqWord_wreqAddress_wreqData w)⟩,
    hread, decodeRead_channel w, eread.trans (rreqWord_rreqAddress w)⟩

/-! ## The operation map, row by row -/

theorem decodeWrite_of_address {w : Word} {a : Byte} (h : wreqAddress w = a) :
    decodeWrite w = decodeWriteAt a (wreqData w) := by
  rw [decodeWrite, h]

theorem decodeRead_of_address {q : Word} {a : Byte} (h : rreqAddress q = a) : decodeRead q = decodeReadAt a := by
  rw [decodeRead, h]

theorem decodeWriteAt_unmapped {a : Byte} (h : a ∉ mappedAddresses) (d : Byte) :
    decodeWriteAt a d = .wrUnmapped a d := by
  rw [decodeWriteAt, decodeAddress_unmapped h]

theorem decodeReadAt_unmapped {a : Byte} (h : a ∉ mappedAddresses) : decodeReadAt a = .rdUnmapped a := by
  rw [decodeReadAt, decodeAddress_unmapped h]

/-- Settles O3: a mapped address chooses its operation by computation, and at `LEDCTL` the data does. -/
theorem writeWordsFollowTheOperationMap : Obligations.WriteWordsFollowTheOperationMap := by
  unfold Obligations.WriteWordsFollowTheOperationMap
  intro w
  refine ⟨?u0data, ?u0stat, ?u1data, ?u1stat, ?reset, ?latch, ?ignore, ?select, ?ledb, ?ledr, ?ledg, ?fdata, ?faddr0,
    ?faddr1, ?faddr2, fun h => decodeWriteAt_unmapped h _⟩ <;> intro ha
  case reset => exact fun hv => (decodeWrite_of_address ha).trans (decodeLedctl_reset hv)
  case latch => exact fun hv => (decodeWrite_of_address ha).trans (decodeLedctl_latch hv)
  case ignore => exact fun hv hv' => (decodeWrite_of_address ha).trans (decodeLedctl_ignore hv hv')
  case select => exact fun hv => (decodeWrite_of_address ha).trans (decodeLedctl_select hv)
  all_goals exact decodeWrite_of_address ha

/-- Settles O4: a mapped address chooses its operation by computation. -/
theorem readWordsFollowTheOperationMap : Obligations.ReadWordsFollowTheOperationMap := by
  unfold Obligations.ReadWordsFollowTheOperationMap
  intro q
  refine ⟨?_, ?_, ?_, ?_, ?_, ?_, ?_, ?_, ?_, ?_, ?_, ?_, decodeReadAt_unmapped⟩ <;> exact decodeRead_of_address

/-- Settles O5, by decoding the ten words. -/
theorem sampleWordsDecode : Obligations.SampleWordsDecode := by
  unfold Obligations.SampleWordsDecode
  decide

end Sys2Proof
end

section
/-! The fields and the value of an LED word (30_encoding.md R53), and when a step stops the machine (R58,
60_exceptions.md R111, R113). -/

namespace Sys2Proof.Machine

/-! ## The LED word (R53) -/

/-- An LED word's value from its pixel's channels. -/
theorem toNat_ledWord (p : Pixel) :
    (ledWord p).toNat = p.g.toNat * 2 ^ 8 + p.r.toNat * 2 ^ 16 + p.b.toNat * 2 ^ 24 := by
  have hgreen := toNat_byte_shiftLeft p.g (k := 8) (by decide)
  have hred := toNat_byte_shiftLeft_or p.r (k := 16) (y := p.g.setWidth 32 <<< 8) (by decide) (by omega)
  rw [ledWord, BitVec.or_assoc, toNat_byte_shiftLeft_or p.b (by decide) (by omega), hred, hgreen]
  omega

/-- Settles O27: the fields are digits of the word's value to base `2 ^ 8`. -/
theorem ledWordPacking : Obligations.LedWordPacking := by
  unfold Obligations.LedWordPacking
  intro p
  have hvalue := toNat_ledWord p
  have hfield (k : Nat) : ((ledWord p).extractLsb' k 8).toNat = (ledWord p).toNat / 2 ^ k % 2 ^ 8 := by
    rw [BitVec.extractLsb'_toNat, Nat.shiftRight_eq_div_pow]
  refine ⟨BitVec.eq_of_toNat_eq ?blue, BitVec.eq_of_toNat_eq ?red, BitVec.eq_of_toNat_eq ?green, isLedWord_ledWord p,
    hvalue⟩
  all_goals
    rw [hfield, hvalue]
    omega

/-! ## When a step stops the machine (R58, R113) -/

/-- The dispatcher's step always answers a next state: no request faults and none is refused (R58, R111). -/
theorem dispatcherStep_completes (s : State) : ∃ t, dispatcherStep s = .next t := by
  unfold dispatcherStep
  cases s.phase with
  | idle =>
    cases poll s with
    | none => exact ⟨s, rfl⟩
    | some p => exact exec_completes p.1 p.2
  | latchEmit i => exact ⟨_, rfl⟩
  | uartTx n b => exact ⟨_, rfl⟩
  | respPush w => exact ⟨_, rfl⟩

/-- With no overrun recorded the machine goes on. -/
theorem exists_step_of_no_overrun {s : State} (ho : s.overrun = false) : ∃ t, step s = .next t := by
  rcases turn_cases s with ho' | hd | ⟨m, hm⟩
  · rw [ho] at ho'; cases ho'
  · rw [step_of_dispatcherMoves hd]
    exact dispatcherStep_completes s.turnTaken
  · exact ⟨_, step_of_environmentMoves hm⟩

/-- Settles O49: a recorded overrun is a fault, and without one the step answers a next state. -/
theorem stepFaultsExactlyOnOverrun : Obligations.StepFaultsExactlyOnOverrun := by
  unfold Obligations.StepFaultsExactlyOnOverrun
  intro s
  cases ho : s.overrun with
  | true => simp [step_overrun ho]
  | false =>
    obtain ⟨t, ht⟩ := exists_step_of_no_overrun ho
    simp [ht]

end Sys2Proof.Machine
end

section
/-! One step at the queues' ends (40_dispatch_and_decode.md R62 to R75, 41_led.md R90, 43_uart.md R110,
70_reset_and_hazards.md R128): what the dispatcher runs, when it pops nothing, what an unmapped address does, and what
each move of the other agents does. -/

namespace Sys2Proof.Machine

/-! ## The dispatcher (R62, R63, R66, R69) -/

/-- With nothing pending an idle dispatcher spins (R69). -/
theorem step_of_nothing_pending {s : State} (hd : s.dispatcherMoves) (hp : s.phase = .idle) (hw : s.wq = [])
    (hq : s.rq = []) : step s = .next s.turnTaken := by
  rw [step_of_dispatcherMoves hd]
  simp [dispatcherStep, poll, hp, hw, hq]

/-- The dispatcher takes words from the two request queues only when it is idle (R63). -/
theorem dispatcherStep_keeps_requests {s t : State} (hp : s.phase ≠ .idle) (h : dispatcherStep s = .next t) :
    t.wq = s.wq ∧ t.rq = s.rq := by
  rcases dispatcherStep_services_or_frame h with ⟨hidle, -⟩ | ⟨hidle, -⟩ | hframe
  · exact absurd hidle hp
  · exact absurd hidle hp
  · rw [hframe]
    exact ⟨rfl, rfl⟩

/-- Settles O8: a step that services no request keeps both request queues, and the environment only extends them. -/
theorem nothingIsPoppedWhileARequestIsInService : Obligations.NothingIsPoppedWhileARequestIsInService := by
  unfold Obligations.NothingIsPoppedWhileARequestIsInService
  intro s hp
  refine ⟨fun hd => ?dispatcher, fun m hm => ?environment⟩
  case dispatcher =>
    obtain ⟨t, ht⟩ := dispatcherStep_completes s.turnTaken
    exact ⟨t, (step_of_dispatcherMoves hd).trans ht, dispatcherStep_keeps_requests (s := s.turnTaken) hp ht⟩
  case environment =>
    obtain ⟨hwq, hrq, -⟩ := (environmentMove_effect m s.turnTaken).queues
    exact ⟨_, step_of_environmentMoves hm, hwq, hrq⟩

/-- Settles O14, by the room in `RSP`. -/
theorem responsePushHoldsUntilThereIsRoom : Obligations.ResponsePushHoldsUntilThereIsRoom := by
  unfold Obligations.ResponsePushHoldsUntilThereIsRoom
  intro s w hd hp
  rw [step_of_respPush hd hp]
  exact ⟨fun hroom => congrArg _ (respPushStep_room w s.turnTaken hroom),
    fun hfull => congrArg _ (respPushStep_full w s.turnTaken hfull)⟩

/-- Settles O6, by what the idle dispatcher finds pending. -/
theorem stepRunsTheDecodedRequest : Obligations.StepRunsTheDecodedRequest := by
  unfold Obligations.StepRunsTheDecodedRequest
  intro s hd hp
  exact ⟨fun _ _ => step_of_pending_write hd hp, fun _ _ => step_of_pending_read hd hp, step_of_nothing_pending hd hp⟩

/-! ## Unmapped addresses (R71, R72) -/

theorem exec_wrUnmapped (a d : Byte) (s : State) : exec (.wrUnmapped a d) s = .next s := rfl

theorem exec_rdUnmapped (a : Byte) (s : State) :
    exec (.rdUnmapped a) s = .next { s with phase := .respPush 0x00000000 } := rfl

/-- Settles O15: the word decodes to `WR_UNMAPPED`, whose execution is the identity. -/
theorem writeToUnmappedAddressIsDropped : Obligations.WriteToUnmappedAddressIsDropped := by
  unfold Obligations.WriteToUnmappedAddressIsDropped
  refine ⟨exec_wrUnmapped, fun s w ws hd hp hw ha => ?_⟩
  have hdecode : decodeRequest .write w = .wrUnmapped (wreqAddress w) (wreqData w) := decodeWriteAt_unmapped ha _
  rw [step_of_pending_write hd hp hw, hdecode, exec_wrUnmapped]

/-- Settles O16: the word decodes to `RD_UNMAPPED`, whose answer is the zero word. -/
theorem readOfUnmappedAddressAnswersZero : Obligations.ReadOfUnmappedAddressAnswersZero := by
  unfold Obligations.ReadOfUnmappedAddressAnswersZero
  refine ⟨exec_rdUnmapped, fun s q qs hd hp hw hq ha => ?_⟩
  have hdecode : decodeRead q = .rdUnmapped (rreqAddress q) := decodeReadAt_unmapped ha
  rw [step_of_pending_read hd hp hw hq, hdecode, exec_rdUnmapped]

/-! ## The moves of the other agents (R74, R75, R90, R110, R128) -/

/-- What a move makes of the state with its turn taken is the step (R122). -/
theorem step_of_environmentMove_eq {m : Move} {s t : State} (hm : s.environmentMoves m)
    (h : environmentMove m s.turnTaken = t) : step s = .next t :=
  (step_of_environmentMoves hm).trans (congrArg _ h)

theorem popResponseMove_pending {s : State} {w : Word} {rest : List Word} (h : s.rsp = w :: rest) :
    popResponseMove s = { s with rsp := rest } := by
  rw [popResponseMove, h, List.tail_cons]

theorem popResponseMove_empty {s : State} (h : s.rsp = []) : popResponseMove s = s := by
  rw [popResponseMove, h, List.tail_nil, ← h]

theorem ledDriverPopMove_pending {s : State} {w : Word} {rest : List Word} (h : s.ledq = w :: rest) :
    ledDriverPopMove s = { s with ledq := rest } := by
  rw [ledDriverPopMove, h, List.tail_cons]

theorem ledDriverPopMove_empty {s : State} (h : s.ledq = []) : ledDriverPopMove s = s := by
  rw [ledDriverPopMove, h, List.tail_nil, ← h]

theorem uartTransmitMove_pending {n : UartId} {s : State} {b : Byte} {rest : List Byte}
    (h : (s.uart n).tx = b :: rest) : uartTransmitMove n s = s.setUart n { s.uart n with tx := rest } := by
  rw [uartTransmitMove, h, List.tail_cons]

theorem uartTransmitMove_empty {n : UartId} {s : State} (h : (s.uart n).tx = []) : uartTransmitMove n s = s := by
  rw [uartTransmitMove, h, List.tail_nil, ← h, State.setUart_self]

theorem releaseMasterMove_ready {s : State} (hbus : s.startup.busArmed = true)
    (hclock : s.startup.clockStarted = true) :
    releaseMasterMove s = { s with startup := { s.startup with masterReleased := true } } := by
  rw [releaseMasterMove, hbus, hclock]
  rfl

theorem releaseMasterMove_early {s : State} (h : s.startup.busArmed = false ∨ s.startup.clockStarted = false) :
    releaseMasterMove s = s := by
  rw [releaseMasterMove, if_neg]
  rcases h with h | h <;> simp [h]

/-- Settles O47, by the room in the request queue pushed into. -/
theorem producerPushesOrOverruns : Obligations.ProducerPushesOrOverruns := by
  unfold Obligations.ProducerPushesOrOverruns
  intro s w hr
  have hr : s.turnTaken.startup.masterReleased = true := hr
  refine ⟨fun hm => ⟨fun hroom => ?_, fun hfull => ?_⟩, fun hm => ⟨fun hroom => ?_, fun hfull => ?_⟩⟩
  · exact step_of_environmentMove_eq hm (pushWriteMove_room hr hroom)
  · exact step_of_environmentMove_eq hm (pushWriteMove_full hr hfull)
  · exact step_of_environmentMove_eq hm (pushReadMove_room hr hroom)
  · exact step_of_environmentMove_eq hm (pushReadMove_full hr hfull)

/-- Settles O48, move by move: a pop by whether there is an entry, the release by how far the startup has come, and the
others by definition. -/
theorem collaboratorsTakeTheirSteps : Obligations.CollaboratorsTakeTheirSteps := by
  unfold Obligations.CollaboratorsTakeTheirSteps
  intro s
  refine ⟨fun hm => ⟨fun w rest h => ?popResponse, fun h => ?noResponse⟩,
    fun hm => ⟨fun w rest h => ?popLed, fun h => ?noLed⟩, fun n c hm => step_of_environmentMove_eq hm rfl,
    fun n hm => ⟨fun b rest h => ?transmit, fun h => ?noByte⟩, fun n st r g hm => step_of_environmentMove_eq hm rfl,
    fun hm => step_of_environmentMove_eq hm rfl, fun hm => step_of_environmentMove_eq hm rfl,
    fun hm => ⟨fun hbus hclock => ?release, fun h => ?early⟩⟩ <;> apply step_of_environmentMove_eq hm
  case popResponse => exact popResponseMove_pending h
  case noResponse => exact popResponseMove_empty h
  case popLed => exact ledDriverPopMove_pending h
  case noLed => exact ledDriverPopMove_empty h
  case transmit => exact uartTransmitMove_pending h
  case noByte => exact uartTransmitMove_empty h
  case release => exact releaseMasterMove_ready hbus hclock
  case early => exact releaseMasterMove_early h

end Sys2Proof.Machine
end

section
/-! The LED pixel-select and latch state machine (41_led.md R76 to R88): what each write to `LEDCTL` and to a colour
channel stores, what a latch emits, and what the reads answer. -/

namespace Sys2Proof.Machine

/-! ## The control register -/

/-- A write to `LEDCTL` is decoded by its data alone (R56). -/
theorem decodeWrite_of_ledctl {w : Word} (ha : wreqAddress w = 0x80) : decodeWrite w = decodeLedctl (wreqData w) :=
  decodeWrite_of_address ha

theorem exec_wrLedctlReset (s : State) :
    exec .wrLedctlReset s = .next { s with pixelCount := 1, selectedIndex := 0 } := rfl

theorem exec_wrLedctlLatch (s : State) : exec .wrLedctlLatch s = .next { s with phase := .latchEmit 0 } := rfl

theorem exec_wrLedctlIgnore (v : Byte) (s : State) : exec (.wrLedctlIgnore v) s = .next s := rfl

/-- A select stores its index, and raises the logical length to one above it (R76). -/
theorem exec_wrLedctlSelect {v : Byte} (hv : v.toNat ≤ 249) (s : State) :
    ∃ (i : Fin 250) (c : Fin 251), i.val = v.toNat ∧ c.val = max s.pixelCount.val (v.toNat + 1) ∧
      exec (.wrLedctlSelect v) s = .next { s with selectedIndex := i, pixelCount := c } := by
  have hlt : v.toNat < 250 := Nat.lt_succ_of_le hv
  have he : exec (.wrLedctlSelect v) s = _ := dif_pos hlt
  refine ⟨_, _, rfl, ?_, he⟩
  split
  next hle => exact (Nat.max_eq_right (Nat.le_succ_of_le hle)).symm
  next hgt => exact (Nat.max_eq_left (Nat.lt_of_not_le hgt)).symm

/-- The select of no pixel, to which no word decodes, changes nothing (log entry 16). -/
theorem exec_wrLedctlSelect_outside {v : Byte} (hv : 250 ≤ v.toNat) (s : State) :
    exec (.wrLedctlSelect v) s = .next s :=
  dif_neg (Nat.not_lt.mpr hv)

theorem exec_rdLedctl (s : State) :
    exec .rdLedctl s = .next (respond (BitVec.ofNat 8 s.selectedIndex.val) s) := rfl

/-- Settles O17: the new length is the larger of the old one and `v + 1`. -/
theorem selectSetsIndexAndGrowsLength : Obligations.SelectSetsIndexAndGrowsLength := by
  unfold Obligations.SelectSetsIndexAndGrowsLength
  refine ⟨fun w ha hv => (decodeWrite_of_ledctl ha).trans (decodeLedctl_select hv), fun v s hv => ?_⟩
  obtain ⟨i, c, hi, hc, he⟩ := exec_wrLedctlSelect hv s
  refine ⟨_, he, hi, fun hle => ?grow, fun hlt => Fin.ext ?keep, rfl⟩
  case grow => exact hc.trans (Nat.max_eq_right (Nat.le_succ_of_le hle))
  case keep => exact hc.trans (Nat.max_eq_left hlt)

/-- Settles O18: the word decodes to `WR_LEDCTL.IGNORE`, whose execution is the identity. -/
theorem outOfRangeSelectIsIgnored : Obligations.OutOfRangeSelectIsIgnored := by
  unfold Obligations.OutOfRangeSelectIsIgnored
  have hdecode (w : Word) (ha : wreqAddress w = 0x80) (h250 : 250 ≤ (wreqData w).toNat)
      (h253 : (wreqData w).toNat ≤ 253) : decodeWrite w = .wrLedctlIgnore (wreqData w) :=
    (decodeWrite_of_ledctl ha).trans (decodeLedctl_ignore h250 h253)
  refine ⟨hdecode, exec_wrLedctlIgnore, fun s w ws hd hp hw ha h250 h253 => ?_⟩
  rw [step_of_pending_write hd hp hw, decodeRequest, hdecode w ha h250 h253, exec_wrLedctlIgnore]

/-- Every operation but the LED reset command keeps the logical length or raises it (R76, R78). -/
theorem pixelCount_le_of_exec {i : Instr} {s t : State} (h : exec i s = .next t) (hi : i ≠ .wrLedctlReset) :
    s.pixelCount.val ≤ t.pixelCount.val := by
  cases hchannel : i.channel with
  | read =>
    obtain ⟨a, ha⟩ := exec_of_channel_read hchannel
    obtain ⟨hpc, -⟩ := readMux_frame a s
    rw [ha] at h
    cases h
    exact (congrArg Fin.val hpc).ge
  | write =>
    cases i with
    | wrLedctlReset => exact absurd rfl hi
    | wrLedctlSelect v =>
      rcases Nat.lt_or_ge v.toNat 250 with hv | hv
      · obtain ⟨i, c, -, hc, he⟩ := exec_wrLedctlSelect (Nat.le_of_lt_succ hv) s
        cases he.symm.trans h
        exact (Nat.le_max_left _ _).trans_eq hc.symm
      · cases (exec_wrLedctlSelect_outside hv s).symm.trans h
        exact le_rfl
    | wrU0Data | wrU0Stat | wrU1Data | wrU1Stat | wrLedctlLatch | wrLedctlIgnore | wrLedB | wrLedR | wrLedG | wrFdata
      | wrFaddr0 | wrFaddr1 | wrFaddr2 | wrUnmapped =>
      cases h
      exact le_rfl
    | _ => cases hchannel

/-- Settles O19: 254 decodes to the reset command, which sets two fields, and the other operations lower no length. -/
theorem ledResetCommandResetsLengthAndIndexOnly : Obligations.LedResetCommandResetsLengthAndIndexOnly := by
  unfold Obligations.LedResetCommandResetsLengthAndIndexOnly
  refine ⟨fun w ha hv => (decodeWrite_of_ledctl ha).trans (decodeLedctl_reset (congrArg BitVec.toNat hv)),
    fun s => ⟨_, exec_wrLedctlReset s, rfl, rfl, rfl⟩, fun i s t h hlt => ?_⟩
  by_contra hi
  exact absurd (pixelCount_le_of_exec h hi) (Nat.not_le.mpr hlt)

/-- Settles O23: the index is below 250, so its byte and its response word have its value, and no input of the read
multiplexer reads the logical length. -/
theorem readOfLedControlAnswersSelectedIndex : Obligations.ReadOfLedControlAnswersSelectedIndex := by
  unfold Obligations.ReadOfLedControlAnswersSelectedIndex
  refine ⟨fun q => decodeRead_of_address, fun s => ?answer, fun i s c hi => ?independent⟩
  case answer =>
    have hlt := s.selectedIndex.isLt
    have hvalue : (respWord (BitVec.ofNat 8 s.selectedIndex.val)).toNat = s.selectedIndex.val := by
      rw [toNat_respWord, BitVec.toNat_ofNat, Nat.mod_eq_of_lt (by omega)]
    exact ⟨_, _, exec_rdLedctl s, rfl, hvalue, hvalue.trans_le (Nat.le_of_lt_succ hlt), rfl⟩
  case independent =>
    obtain ⟨t, ht, hu⟩ := pixelCountCannotBeRead i s c hi
    exact ⟨t, _, ht, hu, rfl⟩

/-! ## The latch (R79, R80) -/

/-- Settles O20: the step that pops the latch leaves it at pixel 0, and the emission from there is `run_of_latchEmit`. -/
theorem latchEmitsTheLogicalLengthInOrder : Obligations.LatchEmitsTheLogicalLengthInOrder := by
  unfold Obligations.LatchEmitsTheLogicalLengthInOrder
  have hdecode (w : Word) (ha : wreqAddress w = 0x80) (hv : wreqData w = 255) : decodeWrite w = .wrLedctlLatch :=
    (decodeWrite_of_ledctl ha).trans (decodeLedctl_latch (congrArg BitVec.toNat hv))
  refine ⟨hdecode, exec_wrLedctlLatch, fun s w ws hd hp hw ha hv hpos hroom => ?_⟩
  rw [Nat.add_comm] at hd ⊢
  obtain ⟨hd, hds⟩ := State.dispatcherMovesFor_succ.mp hd
  have hpop := step_of_pending_write hd hp hw
  rw [decodeRequest, hdecode w ha hv, exec_wrLedctlLatch] at hpop
  have hemit := run_of_latchEmit s.pixelCount.val
    (s := { s.turnTaken with wq := ws, phase := .latchEmit 0 }) hds rfl (Nat.zero_add _).symm hpos hroom
  rw [run_succ _ hpop, hemit, ← hp]
  rfl

/-- Settles O21, by what `latchStep_cases` lists: a hold, the next pixel, the end of the latch. -/
theorem latchEmissionStep : Obligations.LatchEmissionStep := by
  unfold Obligations.LatchEmissionStep
  intro s i hd hp
  rw [step_of_latchEmit hd hp]
  refine ⟨fun hroom => ⟨_, rfl, ?_⟩, fun hfull => congrArg _ (latchStep_full i s.turnTaken hfull)⟩
  rcases latchStep_cases i s.turnTaken with ⟨hfull, -⟩ | ⟨-, j, hj, hlt, e⟩ | ⟨-, hge, e⟩
  · exact absurd hroom (Nat.not_lt.mpr hfull)
  · rw [e]
    exact ⟨rfl, fun _ => ⟨j, hj, rfl⟩, fun hge => absurd (hj ▸ hlt) (Nat.not_lt.mpr hge), rfl⟩
  · rw [e]
    exact ⟨rfl, fun hlt => absurd hlt (Nat.not_lt.mpr hge), fun _ => rfl, rfl⟩

/-! ## Colour channels (R83 to R88) -/

theorem exec_wrLedB (d : Byte) (s : State) :
    exec (.wrLedB d) s = .next (s.setSelectedPixel { s.selectedPixel with b := d }) := rfl

theorem exec_wrLedR (d : Byte) (s : State) :
    exec (.wrLedR d) s = .next (s.setSelectedPixel { s.selectedPixel with r := d }) := rfl

theorem exec_wrLedG (d : Byte) (s : State) :
    exec (.wrLedG d) s = .next (s.setSelectedPixel { s.selectedPixel with g := d }) := rfl

theorem exec_rdLedB (s : State) : exec .rdLedB s = .next (respond s.selectedPixel.b s) := rfl

theorem exec_rdLedR (s : State) : exec .rdLedR s = .next (respond s.selectedPixel.r s) := rfl

theorem exec_rdLedG (s : State) : exec .rdLedG s = .next (respond s.selectedPixel.g s) := rfl

/-- Writing the selected pixel stores it, and leaves every other pixel and all state but `buf` as it was (R83). -/
theorem setSelectedPixel_stores (p : Pixel) (s : State) :
    (s.setSelectedPixel p).buf[s.selectedIndex] = p ∧
      (∀ j : Fin 250, j ≠ s.selectedIndex → (s.setSelectedPixel p).buf[j] = s.buf[j]) ∧
      s.setSelectedPixel p = { s with buf := (s.setSelectedPixel p).buf } :=
  ⟨State.selectedPixel_setSelectedPixel p s, State.setSelectedPixel_buf_other p s, rfl⟩

/-- Settles O24: each colour write is a write of the selected pixel with one channel replaced. -/
theorem colourWritesStoreOneChannel : Obligations.ColourWritesStoreOneChannel := by
  unfold Obligations.ColourWritesStoreOneChannel
  exact ⟨fun _ => ⟨decodeWrite_of_address, decodeWrite_of_address, decodeWrite_of_address⟩, fun d s =>
    ⟨⟨_, exec_wrLedB d s, setSelectedPixel_stores _ s⟩, ⟨_, exec_wrLedR d s, setSelectedPixel_stores _ s⟩,
      _, exec_wrLedG d s, setSelectedPixel_stores _ s⟩⟩

/-- Settles O25: the selected pixel is `buf[selected_index]`, and an answer is its byte zero-extended. -/
theorem colourReadsAnswerTheSelectedPixel : Obligations.ColourReadsAnswerTheSelectedPixel := by
  unfold Obligations.ColourReadsAnswerTheSelectedPixel
  exact ⟨fun _ => ⟨decodeRead_of_address, decodeRead_of_address, decodeRead_of_address⟩,
    fun s => ⟨exec_rdLedB s, exec_rdLedR s, exec_rdLedG s⟩⟩

/-- Settles O26: a colour read after the write finds the pixel stored, and a read of `LEDCTL` after a select the index
stored. -/
theorem ledRegistersReadBackWhatWasWritten : Obligations.LedRegistersReadBackWhatWasWritten := by
  unfold Obligations.LedRegistersReadBackWhatWasWritten
  intro d v s
  refine ⟨⟨_, exec_wrLedB d s, ?blue⟩, ⟨_, exec_wrLedR d s, ?red⟩, ⟨_, exec_wrLedG d s, ?green⟩, fun hv => ?index⟩
  case blue =>
    rw [exec_rdLedB, State.selectedPixel_setSelectedPixel]
    rfl
  case red =>
    rw [exec_rdLedR, State.selectedPixel_setSelectedPixel]
    rfl
  case green =>
    rw [exec_rdLedG, State.selectedPixel_setSelectedPixel]
    rfl
  case index =>
    obtain ⟨i, c, hi, hc, he⟩ := exec_wrLedctlSelect hv s
    refine ⟨_, he, (Nat.le_max_right _ _).trans_eq hc.symm, ?_⟩
    rw [exec_rdLedctl, hi, BitVec.ofNat_toNat, BitVec.setWidth_eq]
    rfl

end Sys2Proof.Machine
end

section
/-! The flash auto-increment address controller (42_flash.md R91 to R100): what each address register's write merges
into the cursor and its read answers, what a flash read answers and advances, and how the cursor's upper bits change. -/

namespace Sys2Proof.Machine

/-! ## Fields of the cursor (R57 item 4, R91 to R96) -/

/-- Words equal under a mask agree in every field the mask covers. -/
theorem extractLsb'_eq_of_and_eq {p q m : Word} {lo n : Nat} (hm : m.extractLsb' lo n = BitVec.allOnes n)
    (h : p &&& m = q &&& m) : p.extractLsb' lo n = q.extractLsb' lo n := by
  have hfield := congrArg (BitVec.extractLsb' lo n) h
  rwa [BitVec.extractLsb'_and, BitVec.extractLsb'_and, hm, BitVec.and_allOnes, BitVec.and_allOnes] at hfield

/-- A masked merge stores its value in the field of its mask. -/
theorem extractLsb'_mergeField_same {k sh : Nat} {m : Word} (hm : (~~~(m <<< sh)).extractLsb' sh k = 0)
    (hk : sh + k ≤ 32) (d : BitVec k) (p : Word) : (mergeField m sh (d.setWidth 32) p).extractLsb' sh k = d := by
  have hd : (d.setWidth 32 <<< sh).extractLsb' sh k = d := by
    ext i hi
    have hlt : sh + i < 32 := by omega
    simp [hi, hlt]
  rw [mergeField, BitVec.extractLsb'_or, BitVec.extractLsb'_and, hm, hd]
  exact (congrArg (· ||| d) BitVec.and_zero).trans BitVec.zero_or

theorem mergeByte0_byte0 (d : Byte) (p : Word) : (mergeByte0 d p).extractLsb' 0 8 = d :=
  extractLsb'_mergeField_same (by decide) (by decide) d p

theorem mergeByte1_byte1 (d : Byte) (p : Word) : (mergeByte1 d p).extractLsb' 8 8 = d :=
  extractLsb'_mergeField_same (by decide) (by decide) d p

theorem mergeNibble2_nibble2 (d : Byte) (p : Word) : (mergeNibble2 d p).extractLsb' 16 4 = d.extractLsb' 0 4 :=
  extractLsb'_mergeField_same (by decide) (by decide) _ p

/-- `WR_FADDR0` leaves every field outside byte 0 (R91). -/
theorem mergeByte0_keeps {lo n : Nat} (hm : (0xFFFFFF00 : Word).extractLsb' lo n = BitVec.allOnes n) (d : Byte)
    (p : Word) : (mergeByte0 d p).extractLsb' lo n = p.extractLsb' lo n :=
  extractLsb'_eq_of_and_eq hm (mergeField_and_not_mask 8 0 p rfl (toNat_setWidth_lt d 32))

/-- `WR_FADDR1` leaves every field outside byte 1 (R92). -/
theorem mergeByte1_keeps {lo n : Nat} (hm : (0xFFFF00FF : Word).extractLsb' lo n = BitVec.allOnes n) (d : Byte)
    (p : Word) : (mergeByte1 d p).extractLsb' lo n = p.extractLsb' lo n :=
  extractLsb'_eq_of_and_eq hm (mergeField_and_not_mask 8 8 p rfl (toNat_setWidth_lt d 32))

/-- `WR_FADDR2` leaves every field outside the low nibble of byte 2 (R93). -/
theorem mergeNibble2_keeps {lo n : Nat} (hm : (0xFFF0FFFF : Word).extractLsb' lo n = BitVec.allOnes n) (d : Byte)
    (p : Word) : (mergeNibble2 d p).extractLsb' lo n = p.extractLsb' lo n :=
  extractLsb'_eq_of_and_eq hm (mergeField_and_not_mask 4 16 p rfl (toNat_setWidth_lt (d.extractLsb' 0 4) 32))

theorem toNat_pointerByte0 (p : Word) : (pointerByte0 p).toNat = p.toNat % 256 := by
  simp [pointerByte0]

theorem toNat_pointerByte1 (p : Word) : (pointerByte1 p).toNat = p.toNat / 2 ^ 8 % 256 := by
  simp [pointerByte1, Nat.shiftRight_eq_div_pow]

theorem toNat_pointerNibble2 (p : Word) : (pointerNibble2 p).toNat = p.toNat / 2 ^ 16 % 16 := by
  simp only [pointerNibble2, BitVec.toNat_setWidth, BitVec.extractLsb'_toNat, Nat.shiftRight_eq_div_pow]
  omega

/-- The low nibble of a byte, zero-extended, is the byte under the mask of its low nibble. -/
theorem setWidth_lowNibble (d : Byte) : (d.extractLsb' 0 4).setWidth 8 = d &&& 0x0F := by
  apply BitVec.eq_of_toNat_eq
  rw [BitVec.toNat_setWidth, BitVec.extractLsb'_toNat, Nat.shiftRight_zero, BitVec.toNat_and]
  have hmask : d.toNat &&& (0x0F : Byte).toNat = d.toNat % 2 ^ 4 := Nat.and_two_pow_sub_one_eq_mod d.toNat 4
  omega

/-- What `RD_FADDR2` answers after `WR_FADDR2` of `d` (R93, R96). -/
theorem pointerNibble2_mergeNibble2 (d : Byte) (p : Word) : pointerNibble2 (mergeNibble2 d p) = d &&& 0x0F := by
  rw [pointerNibble2, mergeNibble2_nibble2, setWidth_lowNibble]

/-! ## The address registers -/

theorem exec_wrFaddr0 (d : Byte) (s : State) :
    exec (.wrFaddr0 d) s = .next { s with pointer := mergeByte0 d s.pointer } := rfl

theorem exec_wrFaddr1 (d : Byte) (s : State) :
    exec (.wrFaddr1 d) s = .next { s with pointer := mergeByte1 d s.pointer } := rfl

theorem exec_wrFaddr2 (d : Byte) (s : State) :
    exec (.wrFaddr2 d) s = .next { s with pointer := mergeNibble2 d s.pointer } := rfl

theorem exec_rdFaddr0 (s : State) : exec .rdFaddr0 s = .next (respond (pointerByte0 s.pointer) s) := rfl

theorem exec_rdFaddr1 (s : State) : exec .rdFaddr1 s = .next (respond (pointerByte1 s.pointer) s) := rfl

theorem exec_rdFaddr2 (s : State) : exec .rdFaddr2 s = .next (respond (pointerNibble2 s.pointer) s) := rfl

/-- Settles O31: each write is a masked merge, which stores its field and keeps the fields beside it. -/
theorem cursorFieldWrites : Obligations.CursorFieldWrites := by
  unfold Obligations.CursorFieldWrites
  refine ⟨fun _ => ⟨decodeWrite_of_address, decodeWrite_of_address, decodeWrite_of_address⟩, fun d s =>
    ⟨⟨_, exec_wrFaddr0 d s, mergeByte0_eq d _, mergeByte0_byte0 d _, mergeByte0_keeps ?_ d _, rfl⟩,
      ⟨_, exec_wrFaddr1 d s, mergeByte1_eq d _, mergeByte1_byte1 d _, mergeByte1_keeps ?_ d _,
        mergeByte1_keeps ?_ d _, rfl⟩,
      ⟨_, exec_wrFaddr2 d s, mergeNibble2_eq d _, mergeNibble2_nibble2 d _, mergeNibble2_keeps ?_ d _,
        mergeNibble2_keeps ?_ d _, rfl⟩⟩⟩ <;> decide

/-- Settles O32: a response word has the value of its byte, and that is the field's. -/
theorem cursorFieldReads : Obligations.CursorFieldReads := by
  unfold Obligations.CursorFieldReads
  exact ⟨fun _ => ⟨decodeRead_of_address, decodeRead_of_address, decodeRead_of_address⟩, fun s =>
    ⟨⟨_, _, exec_rdFaddr0 s, rfl, (toNat_respWord _).trans (toNat_pointerByte0 _), rfl⟩,
      ⟨_, _, exec_rdFaddr1 s, rfl, (toNat_respWord _).trans (toNat_pointerByte1 _), rfl⟩,
      ⟨_, _, exec_rdFaddr2 s, rfl, (toNat_respWord _).trans (toNat_pointerNibble2 _), rfl⟩⟩⟩

/-- Settles O33: the read after the write finds the field stored. -/
theorem cursorFieldsReadBackWhatWasWritten : Obligations.CursorFieldsReadBackWhatWasWritten := by
  unfold Obligations.CursorFieldsReadBackWhatWasWritten
  intro d s
  refine ⟨⟨_, exec_wrFaddr0 d s, ?byte0⟩, ⟨_, exec_wrFaddr1 d s, ?byte1⟩, ⟨_, exec_wrFaddr2 d s, ?nibble2⟩⟩
  case byte0 =>
    rw [exec_rdFaddr0, pointerByte0, mergeByte0_byte0]
    rfl
  case byte1 =>
    rw [exec_rdFaddr1, pointerByte1, mergeByte1_byte1]
    rfl
  case nibble2 =>
    rw [exec_rdFaddr2, pointerNibble2_mergeNibble2]
    rfl

/-! ## The data register (R97 to R99) -/

theorem exec_wrFdata (d : Byte) (s : State) : exec (.wrFdata d) s = .next s := rfl

theorem exec_rdFdata (s : State) :
    exec .rdFdata s = .next (respond (flashReadAndAdvance s).1 (flashReadAndAdvance s).2) := rfl

/-- Inside the window the answer is the flash byte at the cursor. -/
theorem exec_rdFdata_inside {s : State} (h : s.pointer.toNat < 2 ^ 20) :
    exec .rdFdata s =
      .next (respond (Config.flash (Config.flashBase + s.pointer)) { s with pointer := s.pointer + 1 }) := by
  rw [exec_rdFdata, flashReadAndAdvance_inside s h]

/-- Outside the window the answer is drawn (R99). -/
theorem exec_rdFdata_outside {s : State} (h : 2 ^ 20 ≤ s.pointer.toNat) :
    exec .rdFdata s =
      .next (respond (Config.drawByte s.draws) { s with pointer := s.pointer + 1, draws := s.draws + 1 }) := by
  rw [exec_rdFdata, flashReadAndAdvance_outside s h]

theorem toNat_add_one (p : Word) : (p + 1).toNat = (p.toNat + 1) % 2 ^ 32 := BitVec.toNat_add p 1

/-- Inside the window the cursor is too small to wrap. -/
theorem toNat_add_one_of_inWindow {p : Word} (h : inWindow p) : (p + 1).toNat = p.toNat + 1 := by
  rw [toNat_add_one, Nat.mod_eq_of_lt (by omega)]

/-- Settles O34, by whether the cursor is inside the window. -/
theorem flashReadAnswersAndAdvances : Obligations.FlashReadAnswersAndAdvances := by
  unfold Obligations.FlashReadAnswersAndAdvances
  intro s
  exact ⟨fun hin => ⟨_, exec_rdFdata_inside hin, rfl, toNat_add_one_of_inWindow hin, rfl⟩,
    fun hout => ⟨_, _, exec_rdFdata_outside hout, rfl, toNat_add_one s.pointer, rfl⟩⟩

/-- Settles O35: the word decodes to `WR_FDATA`, whose execution is the identity. -/
theorem flashDataWriteIsDropped : Obligations.FlashDataWriteIsDropped := by
  unfold Obligations.FlashDataWriteIsDropped
  refine ⟨exec_wrFdata, fun s w ws hd hp hw ha => ?_⟩
  have hdecode : decodeRequest .write w = .wrFdata (wreqData w) := decodeWrite_of_address ha
  rw [step_of_pending_write hd hp hw, hdecode, exec_wrFdata]

/-! ## Consecutive flash reads (R97, property S6) -/

/-- The response words of the `n` flash bytes from the cursor `p` on. -/
def flashWords (p : Word) (n : Nat) : List Word :=
  (List.range n).map fun k => (Config.flash (Config.flashBase + (p + BitVec.ofNat 32 k))).setWidth 32

/-- `s` after its dispatcher answered `n` flash reads inside the window in `2 * n` turns, with `rest` left in `RQ`. -/
def State.flashReadsAnswered (n : Nat) (rest : List Word) (s : State) : State :=
  { s.turnsTaken (2 * n) with
    rq := rest
    pointer := s.pointer + BitVec.ofNat 32 n
    rsp := s.rsp ++ flashWords s.pointer n }

theorem add_ofNat_add_ofNat (p : Word) (m n : Nat) :
    p + BitVec.ofNat 32 m + BitVec.ofNat 32 n = p + BitVec.ofNat 32 (m + n) := by
  rw [BitVec.ofNat_add, BitVec.add_assoc]

/-- The bytes from a cursor on are those up to a later cursor and those from there on. -/
theorem flashWords_add (p : Word) (m n : Nat) :
    flashWords p (m + n) = flashWords p m ++ flashWords (p + BitVec.ofNat 32 m) n := by
  simp only [flashWords, List.range_add, List.map_append, List.map_map, Function.comp_def, add_ofNat_add_ofNat]

theorem flashWords_one (p : Word) : flashWords p 1 = [respWord (Config.flash (Config.flashBase + p))] := by
  simp [flashWords, respWord]

theorem State.flashReadsAnswered_zero {s : State} {rest : List Word} (h : s.rq = rest) :
    s.flashReadsAnswered 0 rest = s := by
  subst h
  simp [State.flashReadsAnswered, flashWords]

/-- `m` flash reads and then `n` more are `m + n` flash reads. -/
theorem State.flashReadsAnswered_add (m n : Nat) (first rest : List Word) (s : State) :
    (s.flashReadsAnswered m first).flashReadsAnswered n rest = s.flashReadsAnswered (m + n) rest := by
  simp [State.flashReadsAnswered, State.turnsTaken, Turns.takenFor_add, Nat.mul_add, add_ofNat_add_ofNat,
    flashWords_add s.pointer m n]

/-- With room in `RSP` the answer that waits is pushed (R66). -/
theorem step_of_respPush_room {s : State} {w : Word} (hd : s.dispatcherMoves) (hp : s.phase = .respPush w)
    (hroom : s.rsp.length < Config.rspDepth) :
    step s = .next { s.turnTaken with rsp := s.rsp ++ [w], phase := .idle } :=
  (step_of_respPush hd hp).trans (congrArg _ (respPushStep_room w s.turnTaken hroom))

/-- A flash read inside the window is popped in one step and its byte pushed in the next, if there is room. -/
theorem run_answers_flash_read {s : State} {q : Word} {qs : List Word} (hd : s.dispatcherMovesFor 2)
    (hp : s.phase = .idle) (hw : s.wq = []) (hq : s.rq = q :: qs) (ha : rreqAddress q = 0x90)
    (hroom : s.rsp.length < Config.rspDepth) (hin : s.pointer.toNat < 2 ^ 20) :
    Host.Core.run Sys2Proof.core 2 s = .next (s.flashReadsAnswered 1 qs) := by
  obtain ⟨hd, hd'⟩ := State.dispatcherMovesFor_succ.mp hd
  obtain ⟨hd', -⟩ := State.dispatcherMovesFor_succ.mp hd'
  have hdecode : decodeRead q = .rdFdata := decodeRead_of_address ha
  have hpop : step s = exec .rdFdata { s.turnTaken with rq := qs } := hdecode ▸ step_of_pending_read hd hp hw hq
  have hpush := step_of_respPush_room (s := respond (Config.flash (Config.flashBase + s.pointer))
    { s.turnTaken with rq := qs, pointer := s.pointer + 1 }) hd' rfl hroom
  rw [← hp] at hpush
  rw [run_succ 1 (hpop.trans (exec_rdFdata_inside hin)), State.flashReadsAnswered, flashWords_one]
  exact run_succ 0 hpush

/-- The reads at the head of `RQ` are answered in two steps for each, while the cursor stays inside the window. -/
theorem run_answers_flash_reads (reads : List Word) {rest : List Word} {s : State}
    (hd : s.dispatcherMovesFor (2 * reads.length)) (hp : s.phase = .idle) (hw : s.wq = [])
    (hq : s.rq = reads ++ rest) (ha : ∀ q ∈ reads, rreqAddress q = 0x90)
    (hroom : s.rsp.length + reads.length ≤ Config.rspDepth) (hin : s.pointer.toNat + reads.length ≤ 2 ^ 20) :
    Host.Core.run Sys2Proof.core (2 * reads.length) s = .next (s.flashReadsAnswered reads.length rest) := by
  induction reads generalizing s with
  | nil => exact congrArg Host.Outcome.next (State.flashReadsAnswered_zero hq).symm
  | cons q reads ih =>
    have hlen : (q :: reads).length = 1 + reads.length := Nat.add_comm _ 1
    have htwo : 2 * (1 + reads.length) = 2 + 2 * reads.length := Nat.mul_add 2 1 _
    obtain ⟨haq, ha⟩ := List.forall_mem_cons.mp ha
    rw [hlen] at hd hroom hin ⊢
    rw [htwo] at hd ⊢
    have hfirst := run_answers_flash_read (State.dispatcherMovesFor_mono hd (Nat.le_add_right 2 _)) hp hw hq haq
      (by omega) (by omega)
    have hpointer : (s.flashReadsAnswered 1 (reads ++ rest)).pointer.toNat = s.pointer.toNat + 1 :=
      toNat_add_one_of_inWindow (by omega)
    have hrsp : (s.flashReadsAnswered 1 (reads ++ rest)).rsp.length = s.rsp.length + 1 := List.length_append
    have hrest := ih (s := s.flashReadsAnswered 1 (reads ++ rest)) hd.drop hp hw rfl ha (by omega) (by omega)
    rw [State.flashReadsAnswered_add] at hrest
    exact (run_add _ hfirst).trans hrest

/-- Settles O36, by induction on the reads. -/
theorem consecutiveFlashReadsReturnSuccessiveBytes : Obligations.ConsecutiveFlashReadsReturnSuccessiveBytes := by
  unfold Obligations.ConsecutiveFlashReadsReturnSuccessiveBytes
  intro s reads rest
  exact run_answers_flash_reads reads

/-! ## The upper bits of the cursor (R100) -/

/-- An increment changes bits 31:20 only by the carry out of all ones below them. -/
theorem low_eq_of_upper_add_one_ne {p : Word} (h : (p + 1).extractLsb' 20 12 ≠ p.extractLsb' 20 12) :
    p.extractLsb' 0 20 = 0xFFFFF := by
  by_contra hlow
  have hlow : p.toNat % 2 ^ 20 ≠ 0xFFFFF := fun e => hlow (BitVec.eq_of_toNat_eq (by simpa using e))
  refine h (BitVec.eq_of_toNat_eq ?_)
  rw [BitVec.extractLsb'_toNat, BitVec.extractLsb'_toNat, Nat.shiftRight_eq_div_pow, Nat.shiftRight_eq_div_pow,
    toNat_add_one]
  omega

/-- Settles O38: of the steps that move the cursor, the writes keep every bit above 19, and the read adds one. -/
theorem cursorUpperBitsChangeOnlyByCarry : Obligations.CursorUpperBitsChangeOnlyByCarry := by
  unfold Obligations.CursorUpperBitsChangeOnlyByCarry
  intro s t h hne
  obtain ⟨hd, hp, ⟨w, ws, -, ⟨-, hkept⟩ | ⟨-, hkept⟩ | ⟨-, hkept⟩⟩ | ⟨hw, q, qs, hq, ha, hptr⟩⟩ :=
    cursorMovesOnlyAsTheMapSays s t h fun e => hne (congrArg _ e)
  iterate 3 exact absurd (extractLsb'_eq_of_and_eq (by decide) hkept) hne
  · exact ⟨low_eq_of_upper_add_one_ne (hptr ▸ hne), hptr, hd, hp, hw, q, qs, hq, ha⟩

end Sys2Proof.Machine
end

section
/-! The serial proxy (43_uart.md R101 to R108): what a data write hands over and when it holds, which byte a
data read takes, and what the status registers answer and drop. -/

namespace Sys2Proof.Machine

/-! ## Data writes (R101, R102) -/

theorem exec_wrU0Data (d : Byte) (s : State) : exec (.wrU0Data d) s = .next { s with phase := .uartTx .u0 d } := rfl

theorem exec_wrU1Data (d : Byte) (s : State) : exec (.wrU1Data d) s = .next { s with phase := .uartTx .u1 d } := rfl

/-- A ready transceiver takes the byte as the newest it has to transmit. -/
theorem step_of_uartTx_ready {s : State} {n : UartId} {b : Byte} (hd : s.dispatcherMoves) (hp : s.phase = .uartTx n b)
    (hr : (s.uart n).txReady = true) :
    step s =
      .next { s.turnTaken.setUart n { s.uart n with tx := (s.uart n).tx ++ [b] } with phase := .idle } :=
  (step_of_uartTx hd hp).trans (congrArg _ (uartTxStep_ready n b s.turnTaken hr))

/-- While the transceiver is not ready the dispatcher holds (D8, D20). -/
theorem step_of_uartTx_busy {s : State} {n : UartId} {b : Byte} (hd : s.dispatcherMoves) (hp : s.phase = .uartTx n b)
    (hr : (s.uart n).txReady = false) : step s = .next s.turnTaken :=
  (step_of_uartTx hd hp).trans (congrArg _ (uartTxStep_busy n b s.turnTaken hr))

/-- Settles O39: the send that follows the write depends on the transceiver's readiness alone. -/
theorem serialWriteForwardsTheByte : Obligations.SerialWriteForwardsTheByte := by
  unfold Obligations.SerialWriteForwardsTheByte
  refine ⟨fun d s => ⟨exec_wrU0Data d s, exec_wrU1Data d s⟩, fun s d hd => ⟨fun hp => ?u0, fun hp => ?u1⟩⟩
  case u0 => exact ⟨fun hr => ⟨_, step_of_uartTx_ready hd hp hr, rfl, rfl, rfl⟩, step_of_uartTx_busy hd hp⟩
  case u1 => exact ⟨fun hr => ⟨_, step_of_uartTx_ready hd hp hr, rfl, rfl, rfl⟩, step_of_uartTx_busy hd hp⟩

/-! ## Data reads (R103, R104) -/

theorem exec_rdU0Data (s : State) :
    exec .rdU0Data s = .next (respond (uartReadData .u0 s).1 (uartReadData .u0 s).2) := rfl

theorem exec_rdU1Data (s : State) :
    exec .rdU1Data s = .next (respond (uartReadData .u1 s).1 (uartReadData .u1 s).2) := rfl

section
variable {n : UartId} {i : Instr} {s : State}
  (hexec : exec i s = .next (respond (uartReadData n s).1 (uartReadData n s).2))
include hexec

/-- With a byte pending a data read answers the oldest and consumes it. -/
theorem exec_dataRead_pending {b : Byte} {rest : List Byte} (hrx : (s.uart n).rx = b :: rest) :
    exec i s = .next (respond b (s.setUart n { s.uart n with rx := rest })) := by
  rw [hexec, uartReadData_pending n s b rest hrx]

/-- With none pending a data read answers a drawn byte and leaves the transceiver alone (D18). -/
theorem exec_dataRead_empty (hrx : (s.uart n).rx = []) :
    exec i s = .next (respond (Config.staleByte s.draws (s.uart n).rxreg) { s with draws := s.draws + 1 }) := by
  rw [hexec, uartReadData_empty n s hrx]

end

/-- Settles O40, by whether a byte is pending. -/
theorem serialReadConsumesTheOldestByte : Obligations.SerialReadConsumesTheOldestByte := by
  unfold Obligations.SerialReadConsumesTheOldestByte
  intro s
  have hu0 := exec_rdU0Data s
  have hu1 := exec_rdU1Data s
  exact ⟨fun _ _ hrx => ⟨_, exec_dataRead_pending hu0 hrx, rfl, rfl, rfl⟩,
    fun hrx => ⟨_, _, exec_dataRead_empty hu0 hrx, rfl, rfl⟩,
    fun _ _ hrx => ⟨_, exec_dataRead_pending hu1 hrx, rfl, rfl, rfl⟩,
    fun hrx => ⟨_, _, exec_dataRead_empty hu1 hrx, rfl, rfl⟩⟩

/-! ## The status registers (R105 to R108) -/

theorem exec_rdU0Stat (s : State) : exec .rdU0Stat s = .next (respond (statusByte s.uart0.status) s) := rfl

theorem exec_rdU1Stat (s : State) : exec .rdU1Stat s = .next (respond (statusByte s.uart1.status) s) := rfl

theorem exec_wrU0Stat (d : Byte) (s : State) : exec (.wrU0Stat d) s = .next s := rfl

theorem exec_wrU1Stat (d : Byte) (s : State) : exec (.wrU1Stat d) s = .next s := rfl

/-- The value of the response word of a status byte. -/
theorem toNat_respWord_statusByte (v : BitVec Config.uartStatusW) :
    (respWord (statusByte v)).toNat = v.toNat % 256 :=
  (toNat_respWord _).trans (toNat_statusByte v)

/-- Settles O41: a response word has the value of its byte, and that is the low byte of the status word. -/
theorem serialStatusReadAnswersTheLowByte : Obligations.SerialStatusReadAnswersTheLowByte := by
  unfold Obligations.SerialStatusReadAnswersTheLowByte
  exact fun s => ⟨⟨_, _, exec_rdU0Stat s, rfl, toNat_respWord_statusByte _, rfl⟩,
    ⟨_, _, exec_rdU1Stat s, rfl, toNat_respWord_statusByte _, rfl⟩⟩

/-- A serviced write whose operation is the identity is popped, and that is all. -/
theorem step_of_dropped_write {i : Instr} {s : State} {w : Word} {ws : List Word} (hd : s.dispatcherMoves)
    (hp : s.phase = .idle) (hw : s.wq = w :: ws) (hdecode : decodeWrite w = i) (hexec : ∀ s, exec i s = .next s) :
    step s = .next { s.turnTaken with wq := ws } := by
  rw [step_of_pending_write hd hp hw, decodeRequest, hdecode, hexec]

/-- Settles O42: the word decodes to a status write, whose execution is the identity. -/
theorem serialStatusWriteIsDropped : Obligations.SerialStatusWriteIsDropped := by
  unfold Obligations.SerialStatusWriteIsDropped
  refine ⟨fun d s => ⟨exec_wrU0Stat d s, exec_wrU1Stat d s⟩, fun s w ws hd hp hw ha => ?_⟩
  rcases ha with ha | ha
  · exact step_of_dropped_write hd hp hw (decodeWrite_of_address ha) (exec_wrU0Stat _)
  · exact step_of_dropped_write hd hp hw (decodeWrite_of_address ha) (exec_wrU1Stat _)

end Sys2Proof.Machine
end

section
/-! No operation can fail, and none touches a queue once its word is popped (60_exceptions.md R111, 30_encoding.md R58,
40_dispatch_and_decode.md R62). -/

namespace Sys2Proof.Machine

/-- Settles O7: a read changes what its multiplexer input changes and `phase`, a select at most the two LED variables,
and each other write is one update of the state that leaves these fields alone. -/
theorem everyOperationCompletes : Obligations.EveryOperationCompletes := by
  unfold Obligations.EveryOperationCompletes
  intro i s
  cases hchannel : i.channel with
  | read =>
    obtain ⟨a, ha⟩ := exec_of_channel_read hchannel
    obtain ⟨-, -, -, -, hwq, hrq, hrsp, hledq, hoverrun, hstartup, hturns⟩ := readMux_frame a s
    exact ⟨_, ha s, hwq, hrq, hrsp, hledq, hoverrun, hstartup, hturns⟩
  | write =>
    cases i with
    | wrLedctlSelect v =>
      rcases Nat.lt_or_ge v.toNat 250 with hv | hv
      · obtain ⟨_, _, -, -, he⟩ := exec_wrLedctlSelect (Nat.le_of_lt_succ hv) s
        exact ⟨_, he, rfl, rfl, rfl, rfl, rfl, rfl, rfl⟩
      · exact ⟨_, exec_wrLedctlSelect_outside hv s, rfl, rfl, rfl, rfl, rfl, rfl, rfl⟩
    | wrU0Data | wrU0Stat | wrU1Data | wrU1Stat | wrLedctlReset | wrLedctlLatch | wrLedctlIgnore | wrLedB | wrLedR
      | wrLedG | wrFdata | wrFaddr0 | wrFaddr1 | wrFaddr2 | wrUnmapped =>
      exact ⟨_, rfl, rfl, rfl, rfl, rfl, rfl, rfl, rfl⟩
    | _ => cases hchannel

end Sys2Proof.Machine
end

section
/-! The startup (70_reset_and_hazards.md R128, R129): no flag of the sequencer is ever lowered, and until the release
every step leaves the launch state as it is. -/

namespace Sys2Proof.Machine

/-- The dispatcher has no part in the startup (R128). -/
theorem dispatcherStep_startup {s t : State} (h : dispatcherStep s = .next t) : t.startup = s.startup := by
  rcases dispatcherStep_services_or_frame h with ⟨-, w, ws, -, he⟩ | ⟨-, -, q, qs, v, -, rfl⟩ | hframe
  · obtain ⟨-, -, -, -, -, hstartup, -⟩ := he.frame
    exact hstartup
  · obtain ⟨-, -, -, -, -, -, -, -, -, hstartup, -⟩ :=
      readMux_frame (decodeAddress (rreqAddress q)) { s with rq := qs }
    exact hstartup
  · rw [hframe]

/-- The environment's moves only raise the sequencer's flags (R128). -/
theorem MoveEffect.startup_mono {m : Move} {s t : State} (h : MoveEffect m s t) :
    (s.startup.busArmed = true → t.startup.busArmed = true) ∧
    (s.startup.clockStarted = true → t.startup.clockStarted = true) ∧
    (s.startup.masterReleased = true → t.startup.masterReleased = true) := by
  cases h with
  | armBus => exact ⟨fun _ => rfl, id, id⟩
  | startClock => exact ⟨id, fun _ => rfl, id⟩
  | release => exact ⟨id, id, fun _ => rfl⟩
  | uart n u => simp
  | _ => exact ⟨id, id, id⟩

/-- No step lowers a flag of the sequencer. -/
theorem step_startup_mono {s t : State} (h : step s = .next t) :
    (s.startup.busArmed = true → t.startup.busArmed = true) ∧
    (s.startup.clockStarted = true → t.startup.clockStarted = true) ∧
    (s.startup.masterReleased = true → t.startup.masterReleased = true) := by
  rcases step_cases h with ⟨-, h⟩ | ⟨m, -, rfl⟩
  · rw [dispatcherStep_startup h]
    exact ⟨id, id, id⟩
  · exact (environmentMove_effect m s.turnTaken).startup_mono

/-- At the launch values the dispatcher finds nothing to do (R69, R129). -/
theorem State.atLaunch.eq_of_dispatcherStep {s t : State} (hl : s.atLaunch) (h : dispatcherStep s = .next t) : t = s := by
  obtain ⟨-, -, -, -, hp, hwq, hrq, -⟩ := hl
  simp only [dispatcherStep, poll, hp, hwq, hrq] at h
  cases h
  rfl

/-- The launch values speak of neither transceiver. -/
theorem State.atLaunch.setUart {s : State} (h : s.atLaunch) (n : UartId) (u : Uart) : (s.setUart n u).atLaunch := by
  cases n <;> exact h

/-- Before the release the producer is silent and the output queues are empty, so no move disturbs the launch values
(R129). -/
theorem State.atLaunch.keeps_environmentMove {s : State} (h : s.atLaunch) (hr : s.startup.masterReleased = false)
    (m : Move) : (environmentMove m s).atLaunch := by
  cases m with
  | pushWrite w => rwa [environmentMove, pushWriteMove_held hr]
  | pushRead q => rwa [environmentMove, pushReadMove_held hr]
  | popResponse =>
    obtain ⟨-, -, -, -, -, -, -, hrsp, -⟩ := id h
    rwa [environmentMove, popResponseMove_empty hrsp]
  | ledDriverPop =>
    obtain ⟨-, -, -, -, -, -, -, -, hledq, -⟩ := id h
    rwa [environmentMove, ledDriverPopMove_empty hledq]
  | uartReceive n c => exact h.setUart n _
  | uartTransmit n => exact h.setUart n _
  | uartChange n status ready rxreg => exact h.setUart n _
  | armBus | startClock => exact h
  | releaseMaster =>
    rcases releaseMasterMove_cases s with ⟨-, -, e⟩ | e <;> rw [environmentMove, e] <;> exact h

/-- Settles O53: a step from the launch state either leaves the launch values or releases the master. -/
theorem launchStateHoldsUntilRelease : Obligations.LaunchStateHoldsUntilRelease := by
  unfold Obligations.LaunchStateHoldsUntilRelease
  intro s t hi h hr
  obtain ⟨-, -, hmono⟩ := step_startup_mono h
  have hs : s.turnTaken.startup.masterReleased = false := by
    rw [← Bool.not_eq_true] at hr ⊢
    exact mt hmono hr
  have hl : s.turnTaken.atLaunch := hi hs
  rcases step_cases h with ⟨-, hd⟩ | ⟨m, -, rfl⟩
  · exact hl.eq_of_dispatcherStep hd ▸ hl
  · exact hl.keeps_environmentMove hs m

end Sys2Proof.Machine
end

section
/-! Liveness under weak fairness (70_reset_and_hazards.md R143, the spec's decision D25, log entry 29): what a fair order
of turns leads to. -/

namespace Sys2Proof.Machine

/-! ## Runs under an order of turns -/

/-- The run under `f` from `s` comes to a state of `Q`, unless a push overruns a queue before. -/
def Reaches (f : Nat → Turn) (Q : State → Prop) (s : State) : Prop :=
  ∃ n t, runUnder f n s = .next t ∧ (t.overrun = true ∨ Q t)

/-- Every fair order of turns leads from `P` to `Q`, unless a push overruns a queue before. -/
def LeadsTo (P Q : State → Prop) : Prop :=
  ∀ (f : Nat → Turn) (s : State), fair f → s.overrun = false → P s → Reaches f Q s

theorem Reaches.here {f : Nat → Turn} {Q : State → Prop} {s : State} (h : s.overrun = true ∨ Q s) : Reaches f Q s :=
  ⟨0, s, rfl, h⟩

theorem Reaches.after_step {f : Nat → Turn} {Q : State → Prop} {s t : State} (h : step (s.withTurn (f 0)) = .next t)
    (ht : Reaches (fun k => f (k + 1)) Q t) : Reaches f Q s := by
  obtain ⟨n, u, hrun, hend⟩ := ht
  exact ⟨n + 1, u, (runUnder_succ f n h).trans hrun, hend⟩

/-- The first step of a run under an order of turns. -/
theorem step_of_runUnder_succ {f : Nat → Turn} {n : Nat} {s t : State} (h : runUnder f (n + 1) s = .next t) :
    ∃ u, step (s.withTurn (f 0)) = .next u ∧ runUnder (fun k => f (k + 1)) n u = .next t := by
  simp only [runUnder] at h
  split at h
  next u hu => exact ⟨u, hu, h⟩
  next => cases h
  next => cases h

/-- What remains of a fair order of turns after the first is fair. -/
theorem fair.tail {f : Nat → Turn} (h : fair f) : fair fun k => f (k + 1) := by
  intro t ht n
  obtain ⟨k, hk, hf⟩ := h t ht (n + 1)
  obtain ⟨j, rfl⟩ := Nat.exists_eq_add_of_le' (Nat.one_le_of_lt hk)
  exact ⟨j, Nat.le_of_succ_le_succ hk, hf⟩

/-- A step under a given turn is a step of the agent whose turn it is. -/
theorem step_withTurn_cases {x : Turn} {s t : State} (h : step (s.withTurn x) = .next t) :
    (x = .dispatcher ∧ dispatcherStep s = .next t) ∨ ∃ m, x = .environment m ∧ t = environmentMove m s :=
  (step_cases h).imp (fun ⟨hd, h⟩ => ⟨hd.2, h⟩) (fun ⟨m, hm, h⟩ => ⟨m, hm.2, h⟩)

/-! ## The rules of `LeadsTo` -/

/-- The run goes on from where it has come to. -/
theorem Reaches.trans {f : Nat → Turn} {Q R : State → Prop} {s : State} (h : Reaches f Q s) (hf : fair f)
    (hQR : LeadsTo Q R) : Reaches f R s := by
  obtain ⟨n, t, hrun, hend⟩ := h
  induction n generalizing f s with
  | zero =>
    cases hrun
    cases ho : t.overrun with
    | true => exact .here (.inl ho)
    | false => exact hQR f t hf ho (hend.resolve_left (by simp [ho]))
  | succ n ih =>
    obtain ⟨u, hstep, hrun⟩ := step_of_runUnder_succ hrun
    exact .after_step hstep (ih hf.tail hrun)

theorem LeadsTo.trans {P Q R : State → Prop} (hPQ : LeadsTo P Q) (hQR : LeadsTo Q R) : LeadsTo P R :=
  fun f s hf ho hP => (hPQ f s hf ho hP).trans hf hQR

theorem LeadsTo.of_imp {P Q : State → Prop} (h : ∀ s, P s → Q s) : LeadsTo P Q :=
  fun _ s _ _ hP => .here (.inr (h s hP))

theorem LeadsTo.or {P Q R : State → Prop} (hP : LeadsTo P R) (hQ : LeadsTo Q R) : LeadsTo (fun s => P s ∨ Q s) R :=
  fun f s hf ho h => h.elim (hP f s hf ho) (hQ f s hf ho)

/-- The rule of weak fairness: if every turn keeps `P` until `Q`, and the fair turn `a` makes `Q` of `P`, then `P` leads
to `Q`, by induction on the number of turns before `a`. -/
theorem LeadsTo.of_fair_turn {P Q : State → Prop} {a : Turn} (ha : a ∈ fairTurns)
    (keeps : ∀ x s t, P s → step (s.withTurn x) = .next t → P t ∨ Q t)
    (acts : ∀ s t, P s → step (s.withTurn a) = .next t → Q t) : LeadsTo P Q := by
  intro f s hf ho hP
  obtain ⟨k, -, hk⟩ := hf a ha 0
  clear hf
  induction k generalizing f s with
  | zero =>
    obtain ⟨t, ht⟩ := exists_step_of_no_overrun (s := s.withTurn (f 0)) ho
    exact .after_step ht (.here (.inr (acts s t hP (hk ▸ ht))))
  | succ k ih =>
    obtain ⟨t, ht⟩ := exists_step_of_no_overrun (s := s.withTurn (f 0)) ho
    refine .after_step ht ?_
    rcases keeps _ s t hP ht with hPt | hQt
    · cases hot : t.overrun with
      | true => exact .here (.inl hot)
      | false => exact ih _ t hot hPt hk
    · exact .here (.inr hQt)

end Sys2Proof.Machine
end

section
/-! The waits that fair agents end (40_dispatch_and_decode.md R66, R75, 41_led.md R80, R90, 70_reset_and_hazards.md R128):
for room in an output queue, and for the release of the master. -/

namespace Sys2Proof.Machine

/-! ## Waits for room in an output queue -/

/-- `queue` holds up to `depth` words, of which the environment takes the oldest by the fair move `pop` and adds none. -/
structure OutputQueue (queue : State → List Word) (depth : Nat) (pop : Move) : Prop where
  depth_pos : 0 < depth
  pop_fair : .environment pop ∈ fairTurns
  pop_tail : ∀ s, queue (environmentMove pop s) = (queue s).tail
  move_suffix : ∀ m s, queue (environmentMove m s) <:+ queue s

theorem outputQueue_rsp : OutputQueue State.rsp Config.rspDepth .popResponse where
  depth_pos := Nat.succ_pos _
  pop_fair := by decide
  pop_tail _ := rfl
  move_suffix m s := by
    obtain ⟨-, -, hrsp, -⟩ := (environmentMove_effect m s).queues
    exact hrsp

theorem outputQueue_ledq : OutputQueue State.ledq Config.ledqDepth .ledDriverPop where
  depth_pos := Nat.succ_pos _
  pop_fair := by decide
  pop_tail _ := rfl
  move_suffix m s := by
    obtain ⟨-, -, -, hledq⟩ := (environmentMove_effect m s).queues
    exact hledq

/-- A dispatcher held in phase `p` until an output queue has room ends its wait: the pop makes room or finds that there
was some, and from then on the dispatcher's next turn ends the wait (R75, R90). -/
theorem OutputQueue.hold_ends {queue : State → List Word} {depth : Nat} {pop : Move} (hq : OutputQueue queue depth pop)
    {p : Phase} {Q : State → Prop}
    (hfull : ∀ s, s.phase = p → depth ≤ (queue s).length → dispatcherStep s = .next s)
    (hroom : ∀ s t, s.phase = p → (queue s).length < depth → dispatcherStep s = .next t → Q t) :
    LeadsTo (fun s => s.phase = p ∧ (queue s).length ≤ depth) Q := by
  have hkeeps (x : Turn) (s t : State) (hp : s.phase = p) (h : step (s.withTurn x) = .next t) :
      (t.phase = p ∧ (queue t).length ≤ (queue s).length) ∨ Q t := by
    rcases step_withTurn_cases h with ⟨-, hd⟩ | ⟨m, -, rfl⟩
    · rcases Nat.lt_or_ge (queue s).length depth with hlt | hge
      · exact .inr (hroom s t hp hlt hd)
      · rw [hfull s hp hge] at hd
        cases hd
        exact .inl ⟨hp, Nat.le_refl _⟩
    · obtain ⟨hphase, -⟩ := environmentMove_keeps m s
      exact .inl ⟨hphase.trans hp, (hq.move_suffix m s).length_le⟩
  have hpop : LeadsTo (fun s => s.phase = p ∧ (queue s).length ≤ depth)
      (fun s => (s.phase = p ∧ (queue s).length < depth) ∨ Q s) := by
    refine .of_fair_turn hq.pop_fair (fun x s t ⟨hp, hlen⟩ h => ?_) (fun s t ⟨hp, hlen⟩ h => ?_)
    · rcases hkeeps x s t hp h with ⟨hpt, hle⟩ | hQ
      · exact .inl ⟨hpt, hle.trans hlen⟩
      · exact .inr (.inr hQ)
    · rcases step_withTurn_cases h with ⟨hx, -⟩ | ⟨m, hx, rfl⟩ <;> cases hx
      obtain ⟨hphase, -⟩ := environmentMove_keeps pop s
      refine .inl ⟨hphase.trans hp, ?_⟩
      have hpos := hq.depth_pos
      rw [hq.pop_tail, List.length_tail]
      omega
  have hpush : LeadsTo (fun s => s.phase = p ∧ (queue s).length < depth) Q := by
    refine .of_fair_turn (a := .dispatcher) (by decide) (fun x s t ⟨hp, hlt⟩ h => ?_) (fun s t ⟨hp, hlt⟩ h => ?_)
    · exact (hkeeps x s t hp h).imp_left fun ⟨hpt, hle⟩ => ⟨hpt, hle.trans_lt hlt⟩
    · rcases step_withTurn_cases h with ⟨-, hd⟩ | ⟨m, hx, -⟩
      · exact hroom s t hp hlt hd
      · cases hx
  exact hpop.trans (hpush.or (.of_imp fun _ => id))

theorem dispatcherStep_of_respPush {s : State} {w : Word} (hp : s.phase = .respPush w) :
    dispatcherStep s = .next (respPushStep w s) := by
  rw [dispatcherStep, hp]

theorem dispatcherStep_of_latchEmit {s : State} {i : Fin 250} (hp : s.phase = .latchEmit i) :
    dispatcherStep s = .next (latchStep i s) := by
  rw [dispatcherStep, hp]

/-- A waiting response is pushed (R66, R75). -/
theorem respPush_leadsTo_pushed (w : Word) :
    LeadsTo (fun s => s.phase = .respPush w ∧ s.rsp.length ≤ Config.rspDepth)
      (fun t => t.phase = .idle ∧ ∃ before, t.rsp = before ++ [w]) := by
  refine outputQueue_rsp.hold_ends (fun s hp hfull => ?_) (fun s t hp hroom h => ?_)
  · rw [dispatcherStep_of_respPush hp, respPushStep_full w s hfull]
  · rw [dispatcherStep_of_respPush hp, respPushStep_room w s hroom] at h
    cases h
    exact ⟨rfl, s.rsp, rfl⟩

/-- The word of pixel `i` is emitted, and the latch has ended or goes on with the next pixel (R80, R90). -/
theorem latchEmit_leadsTo_next (i : Fin 250) :
    LeadsTo (fun s => s.phase = .latchEmit i ∧ s.ledq.length ≤ Config.ledqDepth)
      (fun t => t.phase = .idle ∨
        ∃ j : Fin 250, j.val = i.val + 1 ∧ t.phase = .latchEmit j ∧ t.ledq.length ≤ Config.ledqDepth) := by
  refine outputQueue_ledq.hold_ends (fun s hp hfull => ?_) (fun s t hp hroom h => ?_)
  · rw [dispatcherStep_of_latchEmit hp, latchStep_full i s hfull]
  · rw [dispatcherStep_of_latchEmit hp] at h
    cases h
    rcases latchStep_cases i s with ⟨hfull, -⟩ | ⟨-, j, hj, -, e⟩ | ⟨-, -, e⟩
    · exact absurd hroom (Nat.not_lt.mpr hfull)
    · rw [e]
      exact .inr ⟨j, hj, rfl, by simpa using hroom⟩
    · rw [e]
      exact .inl rfl

/-- A latch ends, by induction on the number `n` of pixels that may be left to emit (R80, R90). -/
theorem latchEmit_leadsTo_idle (n : Nat) (i : Fin 250) (hn : 250 ≤ i.val + n) :
    LeadsTo (fun s => s.phase = .latchEmit i ∧ s.ledq.length ≤ Config.ledqDepth) (fun t => t.phase = .idle) := by
  induction n generalizing i with
  | zero => exact absurd i.isLt (Nat.not_lt.mpr hn)
  | succ n ih =>
    refine (latchEmit_leadsTo_next i).trans (.or (.of_imp fun _ => id) ?_)
    rintro f s hf ho ⟨j, hj, hlatch⟩
    exact ih j (by omega) f s hf ho hlatch

/-! ## The release of the master -/

/-- The bus is armed, then the clock started, then the master released, each by the sequencer's fair turn for it, and no
step undoes one of them (R128). -/
theorem leadsTo_masterReleased : LeadsTo (fun _ => True) (fun t => t.startup.masterReleased = true) := by
  have hbus : LeadsTo (fun _ => True) (fun t => t.startup.busArmed = true) := by
    refine .of_fair_turn (a := .environment .armBus) (by decide) (fun _ _ _ _ _ => .inl trivial) (fun s t _ h => ?_)
    rcases step_withTurn_cases h with ⟨hx, -⟩ | ⟨m, hx, rfl⟩ <;> cases hx
    rfl
  have hclock : LeadsTo (fun s => s.startup.busArmed = true)
      (fun t => t.startup.busArmed = true ∧ t.startup.clockStarted = true) := by
    refine .of_fair_turn (a := .environment .startClock) (by decide) (fun x s t hb h => ?_)
      (fun s t hb h => ?_)
    · obtain ⟨hbus, -⟩ := step_startup_mono h
      exact .inl (hbus hb)
    · rcases step_withTurn_cases h with ⟨hx, -⟩ | ⟨m, hx, rfl⟩ <;> cases hx
      exact ⟨hb, rfl⟩
  have hrelease : LeadsTo (fun s => s.startup.busArmed = true ∧ s.startup.clockStarted = true)
      (fun t => t.startup.masterReleased = true) := by
    refine .of_fair_turn (a := .environment .releaseMaster) (by decide) (fun x s t ⟨hb, hc⟩ h => ?_)
      (fun s t ⟨hb, hc⟩ h => ?_)
    · obtain ⟨hbus, hclock, -⟩ := step_startup_mono h
      exact .inl ⟨hbus hb, hclock hc⟩
    · rcases step_withTurn_cases h with ⟨hx, -⟩ | ⟨m, hx, rfl⟩ <;> cases hx
      rw [environmentMove, releaseMasterMove_ready hb hc]
  exact hbus.trans (hclock.trans hrelease)

/-- Settles O59: what each of the three waits leads to, from the capacity of the queue it waits for. -/
theorem fairAgentsEndEveryWaitForThem : Obligations.FairAgentsEndEveryWaitForThem := by
  unfold Obligations.FairAgentsEndEveryWaitForThem
  intro f s hf ho hqueue
  obtain ⟨-, -, hrsp, hledq⟩ := hqueue
  exact ⟨fun w hp => respPush_leadsTo_pushed w f s hf ho ⟨hp, hrsp⟩,
    fun i hp => latchEmit_leadsTo_idle 250 i (Nat.le_add_left 250 _) f s hf ho ⟨hp, hledq⟩,
    leadsTo_masterReleased f s hf ho trivial⟩

end Sys2Proof.Machine
end
